-- ==== Sys2Proof/Word.lean ====
section
/-! DEFINITION. The word types of the block: widths fixed by 00_scope R5, 30_encoding R43 and R44. Their arithmetic is that of
BitVec: unsigned and modulo 2^width, with logical shifts (00_scope R8). -/

namespace Sys2Proof

/-- One byte: a message byte or a table index (30_encoding R45, shape B). -/
abbrev Byte := BitVec 8

/-- A CRC-16 table entry or accumulator (00_scope R5). -/
abbrev Half := BitVec 16

/-- A word of GeneratorState, a seed word, a CRC-32 table entry or accumulator (00_scope R5). -/
abbrev Word := BitVec 32

/-- A command word: `op` in bits 39:32, `arg` in bits 31:0 (30_encoding R42, R43). -/
abbrev CmdWord := BitVec 40

/-- The data field of a response (30_encoding R44). -/
abbrev Data := BitVec 128

end Sys2Proof
end

