-- ==== Sys2Proof/Syntax.lean ====
section
/-! DEFINITION. The 13 commands of the block (30_encoding R46), one constructor per row of spec/opcode_table.json. Operands are
held at the width of their shape (R45), so every term is a command that has an encoding. -/

namespace Sys2Proof

/-- A command of the opcode map (30_encoding R46). -/
inductive Instr where
  /-- SEEDW w: append one seed word (40_seed R58). -/
  | seedw (w : Word)
  /-- INIT: construct the generator from the collected seed words (40_seed R59). -/
  | init
  /-- NEXT32: advance the state by one step and return 32 bits (41_prng R65). -/
  | next32
  /-- NEXT64: advance the state by the 64-bit step and return 64 bits (41_prng R67). -/
  | next64
  /-- RSTATE: read the state without changing it (41_prng R69). -/
  | rstate
  /-- C16START: begin a CRC-16 hash (42_crc16 R75). -/
  | c16start
  /-- C16BYTE b: fold one message byte (42_crc16 R76). -/
  | c16byte (b : Byte)
  /-- C16RESULT: read the CRC-16 of the bytes folded so far (42_crc16 R77). -/
  | c16result
  /-- C16RDT i: read table entry i (42_crc16 R78). -/
  | c16rdt (i : Byte)
  /-- C32START: begin a CRC-32 hash (43_crc32 R84). -/
  | c32start
  /-- C32BYTE b: fold one message byte (43_crc32 R85). -/
  | c32byte (b : Byte)
  /-- C32RESULT: read the CRC-32 of the bytes folded so far, complemented (43_crc32 R86). -/
  | c32result
  /-- C32RDT i: read table entry i (43_crc32 R87). -/
  | c32rdt (i : Byte)
  deriving DecidableEq, Repr

/-- The three units of the block (00_scope R1, R2). -/
inductive BlockUnit where
  | prng
  | crc16
  | crc32
  deriving DecidableEq, Repr

end Sys2Proof
end

