-- ==== Sys2Proof/WellFormed.lean ====
section
/-! DEFINITION. Which 40-bit words are commands: the mask and match table of 30_encoding R46, transcribed row by row, and the
legality test R48 builds on it. It is written from the table alone, not from the decoder's case list (R47), so that the two can
be held against each other. -/

namespace Sys2Proof

/-- A row of the opcode map: a word is the row's command exactly when `word and mask = pattern` (30_encoding R46). -/
structure OpcodeRow where
  mnemonic : String
  mask : CmdWord
  pattern : CmdWord
  deriving DecidableEq, Repr

/-- The opcode map (30_encoding R46; spec/opcode_table.json). -/
def opcodeRows : List OpcodeRow :=
  [ ⟨"SEEDW",     0xFF00000000, 0x0100000000⟩,
    ⟨"INIT",      0xFFFFFFFFFF, 0x0200000000⟩,
    ⟨"NEXT32",    0xFFFFFFFFFF, 0x0300000000⟩,
    ⟨"NEXT64",    0xFFFFFFFFFF, 0x0400000000⟩,
    ⟨"RSTATE",    0xFFFFFFFFFF, 0x0500000000⟩,
    ⟨"C16START",  0xFFFFFFFFFF, 0x1000000000⟩,
    ⟨"C16BYTE",   0xFFFFFFFF00, 0x1100000000⟩,
    ⟨"C16RESULT", 0xFFFFFFFFFF, 0x1200000000⟩,
    ⟨"C16RDT",    0xFFFFFFFF00, 0x1300000000⟩,
    ⟨"C32START",  0xFFFFFFFFFF, 0x2000000000⟩,
    ⟨"C32BYTE",   0xFFFFFFFF00, 0x2100000000⟩,
    ⟨"C32RESULT", 0xFFFFFFFFFF, 0x2200000000⟩,
    ⟨"C32RDT",    0xFFFFFFFF00, 0x2300000000⟩ ]

/-- The word is the command of this row (30_encoding R46). -/
def OpcodeRow.fits (r : OpcodeRow) (cmd : CmdWord) : Bool :=
  cmd &&& r.mask == r.pattern

/-- The word is a command of some row; every other word is illegal (30_encoding R48). -/
def legalWord (cmd : CmdWord) : Bool :=
  opcodeRows.any fun r => r.fits cmd

/-- The mnemonic of a command, as the opcode map writes it (30_encoding R46). -/
def Instr.mnemonic : Instr → String
  | .seedw _ => "SEEDW"
  | .init => "INIT"
  | .next32 => "NEXT32"
  | .next64 => "NEXT64"
  | .rstate => "RSTATE"
  | .c16start => "C16START"
  | .c16byte _ => "C16BYTE"
  | .c16result => "C16RESULT"
  | .c16rdt _ => "C16RDT"
  | .c32start => "C32START"
  | .c32byte _ => "C32BYTE"
  | .c32result => "C32RESULT"
  | .c32rdt _ => "C32RDT"

/-- The unit a command belongs to: `op[7:4]`, 0 PRNG, 1 CRC16, 2 CRC32 (30_encoding R43). -/
def Instr.unit : Instr → BlockUnit
  | .seedw _ | .init | .next32 | .next64 | .rstate => .prng
  | .c16start | .c16byte _ | .c16result | .c16rdt _ => .crc16
  | .c32start | .c32byte _ | .c32result | .c32rdt _ => .crc32

end Sys2Proof
end

