-- ==== Sys2Proof/Decode.lean ====
section
/-! DEFINITION. From a command word to a command and back (30_encoding R43, R45, R46, R47). Decoding is total: a word that is no
command is refused by the name of the reason (R48). A command word is handed to the block whole, so there is no byte order and no
length to find (R42). -/

namespace Sys2Proof

/-- Why a word is illegal (30_encoding R48): the three ways of matching no row. -/
inductive Illegal where
  /-- `op` is none of the 13 assigned values. -/
  | unknownOp (op : Byte)
  /-- A shape-N command with a non-zero `arg`. -/
  | argNotZero (op : Byte)
  /-- A shape-B command with a bit of `arg[31:8]` set. -/
  | argNotByte (op : Byte)
  deriving DecidableEq, Repr

/-- `op = cmd[39:32]` (30_encoding R43). -/
def opOf (cmd : CmdWord) : Byte := cmd.extractLsb' 32 8

/-- `arg = cmd[31:0]` (30_encoding R43). -/
def argOf (cmd : CmdWord) : Word := cmd.extractLsb' 0 32

/-- Shape N: `arg` must be zero (30_encoding R45). -/
def shapeN (op : Byte) (arg : Word) (i : Instr) : Except Illegal Instr :=
  if arg = 0 then .ok i else .error (.argNotZero op)

/-- Shape B: `arg[31:8]` must be zero and the operand is `arg[7:0]` (30_encoding R45). -/
def shapeB (op : Byte) (arg : Word) (f : Byte → Instr) : Except Illegal Instr :=
  if arg.extractLsb' 8 24 = 0 then .ok (f (arg.extractLsb' 0 8)) else .error (.argNotByte op)

/-- The case list of 30_encoding R47 on the two fields of the word. -/
def decodeFields (op : Byte) (arg : Word) : Except Illegal Instr :=
  if op = 0x01 then .ok (.seedw arg)
  else if op = 0x02 then shapeN op arg .init
  else if op = 0x03 then shapeN op arg .next32
  else if op = 0x04 then shapeN op arg .next64
  else if op = 0x05 then shapeN op arg .rstate
  else if op = 0x10 then shapeN op arg .c16start
  else if op = 0x11 then shapeB op arg .c16byte
  else if op = 0x12 then shapeN op arg .c16result
  else if op = 0x13 then shapeB op arg .c16rdt
  else if op = 0x20 then shapeN op arg .c32start
  else if op = 0x21 then shapeB op arg .c32byte
  else if op = 0x22 then shapeN op arg .c32result
  else if op = 0x23 then shapeB op arg .c32rdt
  else .error (.unknownOp op)

/-- `decode : 40-bit word → Command or Illegal` (30_encoding R47): a function of the word alone. -/
def decode (cmd : CmdWord) : Except Illegal Instr :=
  decodeFields (opOf cmd) (argOf cmd)

/-- The command word of an instruction that the host numbers as spec/opcode_table.json does: the word itself, with every bit from
bit `nbits` up being zero (30_encoding R42: one length, 40 bits; log entry 9). -/
def tableWord (nbits w : Nat) : CmdWord := BitVec.ofNat 40 (w % 2 ^ nbits)

/-- What the decoder reads from the opcode table's word `w` of `nbits` bits. -/
def decodeTableWord (nbits w : Nat) : Option Instr :=
  match decode (tableWord nbits w) with
  | .ok i => some i
  | .error _ => none

/-- `op ++ arg` (30_encoding R43): the opcode in the more significant position. -/
def pack (op : Byte) (arg : Word) : CmdWord := op ++ arg

/-- The encoding of a command (30_encoding R46): `match or w` for shape W, `match or b` for shape B, `match` for shape N. -/
def encode : Instr → CmdWord
  | .seedw w => pack 0x01 w
  | .init => pack 0x02 0
  | .next32 => pack 0x03 0
  | .next64 => pack 0x04 0
  | .rstate => pack 0x05 0
  | .c16start => pack 0x10 0
  | .c16byte b => pack 0x11 (b.setWidth 32)
  | .c16result => pack 0x12 0
  | .c16rdt i => pack 0x13 (i.setWidth 32)
  | .c32start => pack 0x20 0
  | .c32byte b => pack 0x21 (b.setWidth 32)
  | .c32result => pack 0x22 0
  | .c32rdt i => pack 0x23 (i.setWidth 32)

end Sys2Proof
end

