-- ==== Sys2Proof/Config.lean ====
section
/-! DEFINITION. What the spec leaves open, as free values: constants with no body, so that nothing can be proved of them. The
spec's other open parameters (`reduce32`, `port_protocol`, `latency`, `n_blocks`: 92_eei_decisions, the table of open parameters)
are read by no rule of the block and have no constant here. -/

namespace Sys2Proof

/-- The 32-bit `time_seed` input at the n-th draw for which the state lists no sample (10_state R24; U1: any value; log entry 8: one
value for every block and run at that number). -/
opaque Config.timeSeed : Nat → Word

/-- The 1-bit `time_ok` input at that draw (10_state R24; U1: any value; log entry 8). -/
opaque Config.timeOk : Nat → Bool

/-- What an entry of T16 that has not been written since reset reads as (10_state R27: unspecified; U2: any value; log entry 2). -/
opaque Config.unwrittenT16 : Byte → Half

/-- What an entry of T32 that has not been written since reset reads as (10_state R27: unspecified; U2: any value; log entry 2). -/
opaque Config.unwrittenT32 : Byte → Word

end Sys2Proof
end

