-- ==== Sys2Proof/Machine/State.lean ====
section
/-! DEFINITION. The state of one block: every element of 10_state R13 in three units that share nothing (00_scope R2), and beside
them the host's side of the block (`Port`), which is the model's own. Plain data throughout. -/

namespace Sys2Proof.Machine

/-- Four 32-bit words: GeneratorState S[0..3] (10_state R14) or the seed buffer SEED[0..3] (R16). Word i is `w`i. -/
structure Quad where
  w0 : Word
  w1 : Word
  w2 : Word
  w3 : Word
  deriving DecidableEq, Repr

/-- The PRNG unit (10_state R13 to R16). -/
structure Prng where
  /-- S[0..3], GeneratorState. -/
  s : Quad
  /-- PRNG_VALID: S has been constructed since the last reset. -/
  valid : Bool
  /-- SEED[0..3], the seed words collected so far. -/
  seed : Quad
  /-- SEEDCNT: how many of SEED[0..3] are filled; the values 0 to 4 only (R16, R26 item 2; log entry 10). -/
  seedCnt : Fin 5
  deriving DecidableEq, Repr

/-- A table memory (20_memory R29, R30): the entries that have been written, as pairs of index and whole entry, the indexes
strictly rising. An entry that is not listed holds no value (log entries 2 and 3). At entry width 8 this is `List Host.Cell`. -/
abbrev Table (width : Nat) := List (Nat × BitVec width)

/-- A CRC unit of the given width (10_state R17 to R20). -/
structure CrcUnit (width : Nat) where
  /-- T16 or T32. -/
  table : Table width
  /-- C16_TVALID or C32_TVALID: the table has been built since the last reset. -/
  tvalid : Bool
  /-- ACC16 or ACC32: the accumulator of the hash in progress, for CRC-32 before the final complement. -/
  acc : BitVec width
  /-- C16_ACTIVE or C32_ACTIVE: the accumulator holds a hash in progress. -/
  active : Bool
  deriving DecidableEq, Repr

/-- The causes of an error response (60_exceptions R89). -/
inductive Error where
  /-- E_ILLEGAL: the command word matches no row of the opcode map. -/
  | illegal
  /-- E_PRNG_UNINIT: PRNG_VALID = 0. -/
  | prngUninit
  /-- E_C16_IDLE: C16_ACTIVE = 0. -/
  | c16Idle
  /-- E_C32_IDLE: C32_ACTIVE = 0. -/
  | c32Idle
  deriving DecidableEq, Repr

/-- The status of a response; the codes 5 to 15 are never produced (30_encoding R44, 60_exceptions R89, U8). -/
inductive Status where
  | ok
  | error (e : Error)
  deriving DecidableEq, Repr

/-- The response to one command (30_encoding R44). -/
structure Response where
  status : Status
  data : Data
  deriving DecidableEq, Repr

/-- What the host does to the block: it issues a command word or, between commands, resets (70 R103, R105, R114). -/
inductive HostEvent where
  | command (word : CmdWord)
  | reset
  deriving DecidableEq, Repr

/-- The values of the two clock inputs when an INIT samples them (10_state R24). -/
structure ClockSample where
  /-- `time_seed`. -/
  seed : Word
  /-- `time_ok`. -/
  ok : Bool
  deriving DecidableEq, Repr

/-- The host's and the platform's side of the block. Not state of the block: the model's own fields (log entries 4 and 8). -/
structure Port where
  /-- What the host does next, first event first (70 R113). -/
  inbox : List HostEvent
  /-- The responses given so far, oldest first (70 R113: the observable result of a run). -/
  responses : List Response
  /-- What the platform presents at the next INITs that sample the clock, one sample each (70 R113: one draw for each). -/
  clock : List ClockSample
  /-- How many draws found `clock` empty: the number of the next free draw. -/
  clockReads : Nat
  deriving DecidableEq, Repr

/-- The machine: one block (10_state R13) and its port. -/
structure State where
  prng : Prng
  crc16 : CrcUnit 16
  crc32 : CrcUnit 32
  port : Port
  deriving DecidableEq, Repr

/-- Why the machine would stop with a fault: nothing does. "No operation is fatal" (60_exceptions, opening); every error is a
response after which the block takes the next command (R91), and every access is in range (20_memory R33). No constructor, hence
raised by nobody: neither safe nor unsafe. -/
inductive Fault where
  deriving DecidableEq, Repr

/-- Why the machine would refuse an instruction. -/
inductive Refusal where
  /-- An arm of `exec` that has no meaning yet would answer this (safe); no arm does, since all 13 commands have theirs. -/
  | notModelled (mnemonic : String)
  deriving DecidableEq, Repr

/-- The PRNG unit after reset (10_state R27): PRNG_VALID and SEEDCNT are 0; S and SEED, which the spec leaves unspecified, are 0 by
DESIGN CHOICE (log entry 1; unsafe). -/
def Prng.reset : Prng :=
  { s := ⟨0, 0, 0, 0⟩, valid := false, seed := ⟨0, 0, 0, 0⟩, seedCnt := 0 }

/-- A CRC unit after reset (10_state R27): TVALID and ACTIVE are 0; no table entry holds a value (log entry 2); the accumulator,
which the spec leaves unspecified, is 0 by DESIGN CHOICE (log entry 1; unsafe). -/
def CrcUnit.reset (width : Nat) : CrcUnit width :=
  { table := [], tvalid := false, acc := 0, active := false }

/-- A port at which nothing has happened yet (log entries 4 and 8). -/
def Port.reset : Port :=
  { inbox := [], responses := [], clock := [], clockReads := 0 }

/-- The machine right after reset (10_state R27, 70 R104). -/
def State.reset : State :=
  { prng := Prng.reset, crc16 := CrcUnit.reset 16, crc32 := CrcUnit.reset 32, port := Port.reset }

end Sys2Proof.Machine
end

