-- ==== Sys2Proof/Machine/Ops.lean ====
section
/-! DEFINITION. The named operations over the registers, the table memories and the port: the pseudocode primitives of 00_scope
R10 (`S[i]`, `SEED[i]`, `MemRead`, `MemWrite`, `respond`, `raise`), the sampling of the clock inputs (10_state R24), and the two
events that are no command's effect: an error response (60_exceptions R91) and a reset (70 R103). -/

namespace Sys2Proof.Machine

/-- What a step answers. -/
abbrev Result := Host.Outcome State Fault Refusal

/-! ### Four-word registers -/

/-- Word i of S or SEED (00_scope R10). -/
def Quad.get (q : Quad) (i : Fin 4) : Word :=
  match i with
  | 0 => q.w0
  | 1 => q.w1
  | 2 => q.w2
  | 3 => q.w3

/-- `SEED[i] <- v`: the other words are kept (00_scope R10). -/
def Quad.set (q : Quad) (i : Fin 4) (v : Word) : Quad :=
  match i with
  | 0 => { q with w0 := v }
  | 1 => { q with w1 := v }
  | 2 => { q with w2 := v }
  | 3 => { q with w3 := v }

/-- The four words in order, word 0 first. -/
def Quad.toList (q : Quad) : List Word := [q.w0, q.w1, q.w2, q.w3]

/-- The seed sequence `(SEED[0], ..., SEED[SEEDCNT-1])` (10_state R16). -/
def Prng.words (p : Prng) : List Word := p.seed.toList.take p.seedCnt.val

/-- The append of 40_seed R58: SEED[SEEDCNT] and SEEDCNT when SEEDCNT < 4, nothing when SEEDCNT = 4. -/
def Prng.append (p : Prng) (w : Word) : Prng :=
  if h : p.seedCnt.val < 4 then
    { p with seed := p.seed.set ⟨p.seedCnt.val, h⟩ w, seedCnt := ⟨p.seedCnt.val + 1, by omega⟩ }
  else p

/-! ### Table memories (20_memory R29 to R31) -/

/-- The value an entry holds, if it has been written. -/
def Table.lookup {width : Nat} : Table width → Nat → Option (BitVec width)
  | [], _ => none
  | (k, v) :: t, i => if k = i then some v else Table.lookup t i

/-- `MemRead(T, i)` (00_scope R10, 20_memory R31): the whole entry. An entry that has not been written is unspecified (10_state
R27): its read is the free value (log entry 2). -/
def Table.read {width : Nat} (free : Byte → BitVec width) (t : Table width) (i : Byte) : BitVec width :=
  match Table.lookup t i.toNat with
  | some v => v
  | none => free i

/-- Insertion of one entry into a list of entries with rising indexes. -/
def Table.insert {width : Nat} (k : Nat) (v : BitVec width) : Table width → Table width
  | [] => [(k, v)]
  | (j, u) :: t =>
    if k < j then (k, v) :: (j, u) :: t
    else if k = j then (k, v) :: t
    else (j, u) :: Table.insert k v t

/-- `MemWrite(T, i, v)` (00_scope R10): one whole entry. -/
def Table.write {width : Nat} (t : Table width) (i : Byte) (v : BitVec width) : Table width :=
  Table.insert i.toNat v t

/-- What the table build leaves: `for i = 0 to 255: MemWrite(T, i, f(i))` writes every location once (20_memory R31), so the
old content plays no part. That this is those 256 writes is `Laws.writes_eq_build` (log entry 11). -/
def Table.build {width : Nat} (f : Byte → BitVec width) : Table width :=
  (List.range 256).map fun k => (k, f (BitVec.ofNat 8 k))

/-- The canonical form from index `lo` on: indexes strictly rising and below 256. -/
def Table.wfFrom {width : Nat} : Nat → Table width → Bool
  | _, [] => true
  | lo, (k, _) :: t => decide (lo ≤ k) && decide (k < 256) && Table.wfFrom (k + 1) t

/-- The canonical form of a table memory: strictly rising indexes, all of them among the 256 locations that exist (20_memory R29,
R30, R35). An unlisted entry holds no value, so no listed entry equals what an unlisted one holds. -/
def Table.wf {width : Nat} (t : Table width) : Bool := Table.wfFrom 0 t

/-- MemRead on T16. -/
def readT16 (s : State) (i : Byte) : Half := Table.read Config.unwrittenT16 s.crc16.table i

/-- MemRead on T32. -/
def readT32 (s : State) (i : Byte) : Word := Table.read Config.unwrittenT32 s.crc32.table i

/-! ### Writing one unit, or the port, of the state -/

/-- The state with another PRNG unit. -/
def State.setPrng (s : State) (p : Prng) : State := { s with prng := p }

/-- The state with another CRC16 unit. -/
def State.setCrc16 (s : State) (u : CrcUnit 16) : State := { s with crc16 := u }

/-- The state with another CRC32 unit. -/
def State.setCrc32 (s : State) (u : CrcUnit 32) : State := { s with crc32 := u }

/-- The state with another port. -/
def State.setPort (s : State) (p : Port) : State := { s with port := p }

/-- `S <- q` (00_scope R10). -/
def State.writeS (s : State) (q : Quad) : State := s.setPrng { s.prng with s := q }

/-! ### Responses and errors -/

/-- The response goes to the host, after every effect of the command (30_encoding R44, 20_memory R37). -/
def State.respond (s : State) (r : Response) : State :=
  s.setPort { s.port with responses := s.port.responses ++ [r] }

/-- `respond(OK, data)` (00_scope R10): the command is done. -/
def respondOk (data : Data) (s : State) : Result := .next (s.respond ⟨.ok, data⟩)

/-- `raise <Error>` (00_scope R10; 60_exceptions R91, "trap entry"): the response has the error's code and data 0, nothing is saved
and no element of the block changes. There is no return from it: the next command is taken as usual (R94). -/
def raise (e : Error) (s : State) : Result := .next (s.respond ⟨.error e, 0⟩)

/-! ### The clock inputs -/

/-- The pair (`time_seed`, `time_ok`) at the next draw: the platform's next sample, or else a free value (10_state R24; U1).
DESIGN CHOICE (log entry 8): the free value depends on `clockReads` alone, so two blocks, or two runs from reset, that list no sample
draw the same pair at the same number, which the spec does not say (R24, 20_memory R41, 60_exceptions R97); unsafe for claims that
compare them. -/
def State.clockNow (s : State) : ClockSample :=
  match s.port.clock with
  | d :: _ => d
  | [] => ⟨Config.timeSeed s.port.clockReads, Config.timeOk s.port.clockReads⟩

/-- The state once that draw has been made: each draw is used once (10_state R24, 70 R113). -/
def State.clockUsed (s : State) : State :=
  match s.port.clock with
  | _ :: ds => s.setPort { s.port with clock := ds }
  | [] => s.setPort { s.port with clockReads := s.port.clockReads + 1 }

/-! ### Reset -/

/-- The reset event between two commands (70 R103 to R105): the block goes to the reset state, in all its units at once; there is
no response, and what the host and the platform have done or will do is not the block's to change (log entry 6). -/
def State.resetBlock (s : State) : State :=
  { State.reset with port := s.port }

end Sys2Proof.Machine
end

