-- ==== Sys2Proof/Machine/Operands.lean ====
section
/-! DEFINITION. Where operands come from and where results go: the table index of the fold (20_memory R31, R33) and the layout of a
result in the 128 bits of `data` (30_encoding R44, R53). The operand shapes N, W and B of the command word (R45) are the decoder's
(`shapeN`, `shapeB`): a command carries its operand at its own width, with no extension, scaling or shift. -/

namespace Sys2Proof.Machine

/-- `zext_128(v)` (00_scope R9, 30_encoding R44): a result of 16, 32 or 64 bits in the low bits of `data`. -/
def resultData {width : Nat} (v : BitVec width) : Data := v.setWidth 128

/-- The snapshot `S[3] ++ S[2] ++ S[1] ++ S[0]`: S[i] at bits 32i+31 to 32i (41_prng R69, 30_encoding R53). -/
def snapshotData (q : Quad) : Data := q.w3 ++ q.w2 ++ q.w1 ++ q.w0

/-- The 64-bit output: the first word in bits 63 to 32, the second in bits 31 to 0 (41_prng R66, 20_memory R32 item 3). -/
def joinWords (hi lo : Word) : BitVec 64 := (hi.setWidth 64 <<< 32) ||| lo.setWidth 64

/-- `index = b xor acc[7:0]` (42_crc16 R73, 43_crc32 R82): 8 bits, so always in range (20_memory R33). -/
def foldIndex {width : Nat} (acc : BitVec width) (b : Byte) : Byte := b ^^^ acc.extractLsb' 0 8

end Sys2Proof.Machine
end

