-- ==== Sys2Proof/Machine/Crc.lean ====
section
/-! DEFINITION. What the two CRC engines share: the shape of the table entry, of the fold and of the lazy build. The units differ in
exactly width, polynomial, initial accumulator and final transform (43_crc32 R88 item 6). -/

namespace Sys2Proof.Machine

/-- One iteration of the table build: the low bit is tested before the logical shift (42_crc16 R72, 43_crc32 R81). -/
def crcShift {width : Nat} (poly r : BitVec width) : BitVec width :=
  if r.getLsbD 0 then (r >>> 1) ^^^ poly else r >>> 1

/-- A table entry: eight iterations from the zero-extended index (42_crc16 R72, 43_crc32 R81). -/
def crcEntry {width : Nat} (poly : BitVec width) (i : Byte) : BitVec width :=
  Nat.repeat (crcShift poly) 8 (i.setWidth width)

/-- One byte into the accumulator through a table (42_crc16 R73, 43_crc32 R82). -/
def crcFold {width : Nat} (entry : Byte → BitVec width) (acc : BitVec width) (b : Byte) : BitVec width :=
  entry (foldIndex acc b) ^^^ (acc >>> 8)

/-- `if TVALID = 0 then` build the table and set TVALID; a built table is not built again (42_crc16 R75, R78; 43_crc32 R84, R87;
70 R109). -/
def CrcUnit.ensureBuilt {width : Nat} (entry : Byte → BitVec width) (u : CrcUnit width) : CrcUnit width :=
  if u.tvalid then u else { u with table := Table.build entry, tvalid := true }

/-- The start of a hash: the initial accumulator and ACTIVE (42_crc16 R75, 43_crc32 R84). -/
def CrcUnit.start {width : Nat} (initial : BitVec width) (u : CrcUnit width) : CrcUnit width :=
  { u with acc := initial, active := true }

end Sys2Proof.Machine
end

