-- ==== Sys2Proof/Machine/Flags.lean ====
section
/-! DEFINITION. The block has no condition codes: no command sets a carry, overflow, zero or sign flag (10_state R23). Its flags are
the five validity flags of R13, and this file says what a command's precondition on one of them does (60_exceptions R89, R93). -/

namespace Sys2Proof.Machine

/-- `if <flag> = 0 then raise <Error>`, and otherwise the rest of the command (60_exceptions R93, stage 2). -/
def require (flag : Bool) (e : Error) (s : State) (rest : Result) : Result :=
  if flag then rest else raise e s

/-- NEXT32, NEXT64 and RSTATE need PRNG_VALID = 1 (10_state R15, 41_prng R63). -/
def requirePrng (s : State) (rest : Result) : Result := require s.prng.valid .prngUninit s rest

/-- C16BYTE and C16RESULT need C16_ACTIVE = 1 (10_state R18). -/
def requireC16 (s : State) (rest : Result) : Result := require s.crc16.active .c16Idle s rest

/-- C32BYTE and C32RESULT need C32_ACTIVE = 1 (10_state R20). -/
def requireC32 (s : State) (rest : Result) : Result := require s.crc32.active .c32Idle s rest

/-- The 4-bit code of a status (60_exceptions R89). -/
def Status.code : Status → BitVec 4
  | .ok => 0
  | .error .illegal => 1
  | .error .prngUninit => 2
  | .error .c16Idle => 3
  | .error .c32Idle => 4

end Sys2Proof.Machine
end

