-- ==== Sys2Proof/Machine/Crc16.lean ====
section
/-! DEFINITION. The CRC-16 table engine: C16START, C16BYTE, C16RESULT and C16RDT (42_crc16). -/

namespace Sys2Proof.Machine

/-- POLY16 (00_scope R5). -/
def poly16 : Half := 0xA001

/-- `tab16(i)` (42_crc16 R72). -/
def tab16 (i : Byte) : Half := crcEntry poly16 i

/-- `fold16(acc, b)` (42_crc16 R73). -/
def fold16 (acc : Half) (b : Byte) : Half := crcFold tab16 acc b

/-- The initial accumulator of a CRC-16 (42_crc16 R74). -/
def init16 : Half := 0x0000

/-- `crc16(bytes)`: no final transform (42_crc16 R74). -/
def crc16 (bytes : List Byte) : Half := bytes.foldl fold16 init16

/-- C16START (42_crc16 R75). -/
def execC16start (s : State) : Result :=
  respondOk 0 (s.setCrc16 ((s.crc16.ensureBuilt tab16).start init16))

/-- C16BYTE b (42_crc16 R76). -/
def execC16byte (b : Byte) (s : State) : Result :=
  requireC16 s (respondOk 0 (s.setCrc16 { s.crc16 with acc := crcFold (readT16 s) s.crc16.acc b }))

/-- C16RESULT (42_crc16 R77). -/
def execC16result (s : State) : Result :=
  requireC16 s (respondOk (resultData s.crc16.acc) s)

/-- The state once T16 is built. -/
def State.withT16 (s : State) : State := s.setCrc16 (s.crc16.ensureBuilt tab16)

/-- C16RDT i (42_crc16 R78). -/
def execC16rdt (i : Byte) (s : State) : Result :=
  respondOk (resultData (readT16 s.withT16 i)) s.withT16

end Sys2Proof.Machine
end

