-- ==== Sys2Proof/Machine/Crc32.lean ====
section
/-! DEFINITION. The CRC-32 table engine: C32START, C32BYTE, C32RESULT and C32RDT (43_crc32). -/

namespace Sys2Proof.Machine

/-- POLY32 (00_scope R5). -/
def poly32 : Word := 0xEDB88320

/-- `tab32(i)` (43_crc32 R81). -/
def tab32 (i : Byte) : Word := crcEntry poly32 i

/-- `fold32(acc, b)` (43_crc32 R82). -/
def fold32 (acc : Word) (b : Byte) : Word := crcFold tab32 acc b

/-- The initial accumulator of a CRC-32: all ones (43_crc32 R83). -/
def init32 : Word := 0xFFFFFFFF

/-- `crc32(bytes)`: the bitwise complement of the accumulator (43_crc32 R83). -/
def crc32 (bytes : List Byte) : Word := ~~~(bytes.foldl fold32 init32)

/-- C32START (43_crc32 R84). -/
def execC32start (s : State) : Result :=
  respondOk 0 (s.setCrc32 ((s.crc32.ensureBuilt tab32).start init32))

/-- C32BYTE b (43_crc32 R85). -/
def execC32byte (b : Byte) (s : State) : Result :=
  requireC32 s (respondOk 0 (s.setCrc32 { s.crc32 with acc := crcFold (readT32 s) s.crc32.acc b }))

/-- C32RESULT (43_crc32 R86): the complement is taken on 32 bits and only in the response. -/
def execC32result (s : State) : Result :=
  requireC32 s (respondOk (resultData (~~~s.crc32.acc)) s)

/-- The state once T32 is built. -/
def State.withT32 (s : State) : State := s.setCrc32 (s.crc32.ensureBuilt tab32)

/-- C32RDT i (43_crc32 R87). -/
def execC32rdt (i : Byte) (s : State) : Result :=
  respondOk (resultData (readT32 s.withT32 i)) s.withT32

end Sys2Proof.Machine
end

