-- ==== Sys2Proof/Machine/Generator.lean ====
section
/-! DEFINITION. The xorshift state-advance engine: NEXT32, NEXT64 and RSTATE (41_prng). Every formula is over the words before the
command (R63; 70 R107), but for the new S[3] of the 64-bit step, which uses the new S[2] (R66; 70 R108). -/

namespace Sys2Proof.Machine

/-- `x xor (x shl 11)` modulo 2^32, the term `n`, `n1` or `m` (41_prng R64, R66). -/
def mixLeft (x : Word) : Word := x ^^^ (x <<< 11)

/-- `step32`: the new state and the 32-bit output (41_prng R64). -/
def step32 (q : Quad) : Quad × Word :=
  let n := mixLeft q.w0
  let r := n ^^^ (n >>> 8) ^^^ q.w3 ^^^ (q.w3 >>> 19)
  (⟨q.w1, q.w2, q.w3, r⟩, r)

/-- `step64`: the new state and the 64-bit output (41_prng R66). -/
def step64 (q : Quad) : Quad × BitVec 64 :=
  let n1 := mixLeft q.w0
  let n3 := n1 ^^^ (n1 >>> 8) ^^^ q.w3
  let u2 := n3 ^^^ (q.w3 >>> 19)
  let m := mixLeft q.w1
  let u3 := m ^^^ (m >>> 8) ^^^ u2 ^^^ (n3 >>> 19)
  (⟨q.w2, q.w3, u2, u3⟩, joinWords u2 u3)

/-- NEXT32 (41_prng R65). -/
def execNext32 (s : State) : Result :=
  requirePrng s (respondOk (resultData (step32 s.prng.s).2) (s.writeS (step32 s.prng.s).1))

/-- NEXT64 (41_prng R67). -/
def execNext64 (s : State) : Result :=
  requirePrng s (respondOk (resultData (step64 s.prng.s).2) (s.writeS (step64 s.prng.s).1))

/-- RSTATE (41_prng R69). -/
def execRstate (s : State) : Result :=
  requirePrng s (respondOk (snapshotData s.prng.s) s)

end Sys2Proof.Machine
end

