-- ==== Sys2Proof/Machine/Seed.lean ====
section
/-! DEFINITION. Seed collection and seed expansion: SEEDW and INIT (40_seed). -/

namespace Sys2Proof.Machine

/-- K, the multiplier of the seed expansion (00_scope R5). -/
def seedMultiplier : Word := 0x6C078965

/-- FALLBACK, the state used when all four seed words are zero (00_scope R5). -/
def fallback : Quad := ⟨0x00000001, 0x6C078967, 0x714ACB41, 0x48077044⟩

/-- One line of the recurrence of 40_seed R55: `K * (x xor (x shr 30)) + c`, modulo 2^32. -/
def scramble (x c : Word) : Word := seedMultiplier * (x ^^^ (x >>> 30)) + c

/-- `expand1`: one seed word to four words (40_seed R55). -/
def expand1 (seed : Word) : Quad :=
  let t0 := scramble seed 1
  let t1 := scramble t0 2
  let t2 := scramble t1 3
  let t3 := scramble t2 4
  ⟨t0, t1, t2, t3⟩

/-- `seed4`: the four words as they are, or the fallback if all are zero (40_seed R56). -/
def seed4 (w0 w1 w2 w3 : Word) : Quad :=
  if w0 ||| w1 ||| w2 ||| w3 = 0 then fallback else ⟨w0, w1, w2, w3⟩

/-- The seed of the zero-word case: `time_seed`, or 0 if the clock is unavailable (40_seed R57). -/
def ClockSample.word (d : ClockSample) : Word := if d.ok then d.seed else 0

/-- `construct(ws, time_seed, time_ok)` for a sequence of at most four words (40_seed R57). -/
def construct (ws : List Word) (d : ClockSample) : Quad :=
  match ws with
  | [] => expand1 d.word
  | [a] => expand1 a
  | [a, b] => seed4 a b 0 0
  | [a, b, c] => seed4 a b c 0
  | a :: b :: c :: e :: _ => seed4 a b c e

/-- SEEDW w (40_seed R58). -/
def execSeedw (w : Word) (s : State) : Result :=
  respondOk 0 (s.setPrng (s.prng.append w))

/-- The PRNG unit once INIT has constructed its state from the draw `d` (40_seed R59): SEED keeps its bits. -/
def Prng.constructed (p : Prng) (d : ClockSample) : Prng :=
  { p with s := construct p.words d, valid := true, seedCnt := 0 }

/-- The state after INIT's draw: the clock is sampled only when SEEDCNT = 0 (40_seed R57, 10_state R24). -/
def State.afterDraw (s : State) : State :=
  if s.prng.seedCnt = 0 then s.clockUsed else s

/-- INIT (40_seed R59). -/
def execInit (s : State) : Result :=
  respondOk 0 (s.afterDraw.setPrng (s.prng.constructed s.clockNow))

end Sys2Proof.Machine
end

