-- ==== Sys2Proof/Machine/Dispatch.lean ====
section
/-! DEFINITION. `exec`: one command, its effects and its one response (00_scope R7), by constructor. -/

namespace Sys2Proof.Machine

def exec (i : Instr) (s : State) : Host.Outcome State Fault Refusal :=
  match i with
  -- PRNG unit: seed collection and expansion (40_seed)
  | .seedw w => Sys2Proof.Machine.execSeedw w s
  | .init => Sys2Proof.Machine.execInit s
  -- PRNG unit: outputs (41_prng)
  | .next32 => Sys2Proof.Machine.execNext32 s
  | .next64 => Sys2Proof.Machine.execNext64 s
  | .rstate => Sys2Proof.Machine.execRstate s
  -- CRC16 unit (42_crc16)
  | .c16start => Sys2Proof.Machine.execC16start s
  | .c16byte b => Sys2Proof.Machine.execC16byte b s
  | .c16result => Sys2Proof.Machine.execC16result s
  | .c16rdt k => Sys2Proof.Machine.execC16rdt k s
  -- CRC32 unit (43_crc32)
  | .c32start => Sys2Proof.Machine.execC32start s
  | .c32byte b => Sys2Proof.Machine.execC32byte b s
  | .c32result => Sys2Proof.Machine.execC32result s
  | .c32rdt k => Sys2Proof.Machine.execC32rdt k s

end Sys2Proof.Machine
end

