-- ==== Sys2Proof/Machine/Issue.lean ====
section
/-! DEFINITION. How a host event reaches the block: a command word is decoded and executed, or answered E_ILLEGAL (60_exceptions
R93: decode first, and no state is consulted), and a reset puts the block into the reset state (70 R103). -/

namespace Sys2Proof.Machine

/-- One command word, handed to the block whole (30_encoding R42, R47, R48). -/
def issue (word : CmdWord) (s : State) : Result :=
  match decode word with
  | .ok i => exec i s
  | .error _ => raise .illegal s

/-- One host event (70 R103, R114). -/
def takeEvent (e : HostEvent) (s : State) : Result :=
  match e with
  | .command word => issue word s
  | .reset => .next s.resetBlock

/-- The next host event, and the state with that event taken from the port. -/
def State.nextEvent (s : State) : Option (HostEvent × State) :=
  match s.port.inbox with
  | [] => none
  | e :: rest => some (e, s.setPort { s.port with inbox := rest })

/-- The state in which the next host event is the issue of this word (log entry 4). -/
def State.issueNext (s : State) (word : CmdWord) : State :=
  s.setPort { s.port with inbox := .command word :: s.port.inbox }

end Sys2Proof.Machine
end

