-- ==== Sys2Proof/Machine/Step.lean ====
section
/-! DEFINITION. One step of the machine: the block takes the host's next event, or holds its state while there is none. -/

namespace Sys2Proof.Machine

/-- One step: the next host event taken and performed whole (00_scope R7); with none to take, the block "simply holds its state"
(60_exceptions R102; log entry 5). -/
def step (s : State) : Host.Outcome State Fault Refusal :=
  match s.nextEvent with
  | some (e, t) => takeEvent e t
  | none => .next s

/-- The state whose next step decodes and runs the opcode table's word `w` of `nbits` bits: the host issues it next (log entry 4). -/
def State.withFetchWord (s : State) (nbits w : Nat) : State :=
  s.issueNext (tableWord nbits w)

end Sys2Proof.Machine
end

