-- ==== Sys2Proof/Machine/Run.lean ====
section
/-! DEFINITION. Sequences of commands (00_scope R7, 70 R113), the macros of 30_encoding R51, and a system of several blocks
(20_memory R41). -/

namespace Sys2Proof.Machine

/-- The effect of a finite list of commands, in order (70 R113). -/
def execAll : List Instr → State → Result
  | [], s => .next s
  | i :: is, s =>
    match exec i s with
    | .next t => execAll is t
    | .fault r => .fault r
    | .refused r => .refused r

/-- `MKGEN w0, ..., w(k-1)` (30_encoding R51). -/
def mkgen (ws : List Word) : List Instr := ws.map .seedw ++ [.init]

/-- `HASH16 b0, ..., b(n-1)` (30_encoding R51). -/
def hash16 (bytes : List Byte) : List Instr := .c16start :: (bytes.map .c16byte ++ [.c16result])

/-- `HASH32 b0, ..., b(n-1)` (30_encoding R51). -/
def hash32 (bytes : List Byte) : List Instr := .c32start :: (bytes.map .c32byte ++ [.c32result])

/-- The bytes of the UTF-8 encoding of a text, in order, with nothing added (20_memory R40). -/
def textBytes (text : String) : List Byte := text.toByteArray.data.toList.map fun b => b.toBitVec

/-- `HASH16S "text"` (30_encoding R51). -/
def hash16s (text : String) : List Instr := hash16 (textBytes text)

/-- `HASH32S "text"` (30_encoding R51). -/
def hash32s (text : String) : List Instr := hash32 (textBytes text)

/-- A system of several blocks, each with all of the state for itself (20_memory R41). -/
abbrev System := List State

/-- One step of block `k` of a system; the other blocks are not reached (20_memory R41, 60_exceptions R99). `none` if there is no
such block. -/
def System.stepBlock (sys : System) (k : Nat) : Option (Host.Outcome System Fault Refusal) :=
  match sys[k]? with
  | none => none
  | some s =>
    match step s with
    | .next t => some (.next (sys.set k t))
    | .fault r => some (.fault r)
    | .refused r => some (.refused r)

end Sys2Proof.Machine
end

