-- ==== Sys2Proof/Machine/Assembler.lean ====
section
/-! DEFINITION. The assembler's text form of 30_encoding R50 and the macros of R51: from a line of text to commands, and a listing
line. Software around the block, not part of it: nothing in `step` uses it. What R50 leaves open is in log entry 15. -/

namespace Sys2Proof.Machine

/-- A piece of a source line. -/
inductive Token where
  | name (cs : List Char)
  | number (n : Nat)
  /-- One printable ASCII character in single quotes. -/
  | char (c : Char)
  /-- A text in double quotes (the operand of HASH16S and HASH32S). -/
  | text (cs : List Char)
  | comma
  deriving DecidableEq, Repr

/-- The value of a digit character, hexadecimal digits in either case. -/
def digitValue (c : Char) : Option Nat :=
  let n := c.toNat
  if 48 ≤ n ∧ n ≤ 57 then some (n - 48)
  else if 65 ≤ n ∧ n ≤ 70 then some (n - 55)
  else if 97 ≤ n ∧ n ≤ 102 then some (n - 87)
  else none

/-- A numeral in the given base, most significant digit first, with `acc` read so far. -/
def readDigits (base : Nat) : Nat → List Char → Option Nat
  | acc, [] => some acc
  | acc, c :: cs =>
    match digitValue c with
    | some d => if d < base then readDigits base (base * acc + d) cs else none
    | none => none

/-- A word that begins with a digit is a number, decimal or with `0x` hexadecimal (30_encoding R50); any other word is a name. -/
def wordToken (cs : List Char) : Option Token :=
  match cs with
  | [] => none
  | '0' :: 'x' :: [] => none
  | '0' :: 'x' :: ds => (readDigits 16 0 ds).map .number
  | c :: ds => if 48 ≤ c.toNat ∧ c.toNat ≤ 57 then (readDigits 10 0 (c :: ds)).map .number else some (.name cs)

/-- A printable ASCII character. -/
def printable (c : Char) : Bool := 32 ≤ c.toNat && c.toNat ≤ 126

/-- The characters up to the closing double quote, and what follows it. -/
def takeText : List Char → Option (List Char × List Char)
  | [] => none
  | c :: cs => if c = '"' then some ([], cs) else (takeText cs).map fun p => (c :: p.1, p.2)

/-- The tokens from here on, after the word whose characters have been collected in `cur`, last one first. -/
def endWord (cur : List Char) (rest : Option (List Token)) : Option (List Token) :=
  match cur with
  | [] => rest
  | _ => (wordToken cur.reverse).bind fun t => rest.map (t :: ·)

/-- The tokens of a line: `;` begins a comment to the end of the line (30_encoding R50). A space or tab, a comma and a quote each end
the word before them, so that no blank need stand between a mnemonic and a quoted operand: `C16BYTE'a'` is `C16BYTE 'a'` (DESIGN
CHOICE, log entry 15: R50 is silent). The first argument bounds the number of steps; the length of the line plus one is enough. -/
def lexFrom : Nat → List Char → List Char → Option (List Token)
  | 0, _, _ => none
  | _ + 1, cur, [] => endWord cur (some [])
  | n + 1, cur, c :: cs =>
    if c = ';' then endWord cur (some [])
    else if c = ',' then endWord cur ((lexFrom n [] cs).map (.comma :: ·))
    else if c = ' ' ∨ c = '\t' then endWord cur (lexFrom n [] cs)
    else if c = '"' then
      (takeText cs).bind fun p => endWord cur ((lexFrom n [] p.2).map (.text p.1 :: ·))
    else if c = '\'' then
      match cs with
      | d :: '\'' :: rest => if printable d then endWord cur ((lexFrom n [] rest).map (.char d :: ·)) else none
      | _ => none
    else lexFrom n (c :: cur) cs

/-- The tokens of a whole line. -/
def lex (line : List Char) : Option (List Token) := lexFrom (line.length + 1) [] line

/-- A list of operands separated by commas (30_encoding R51). -/
def operands : List Token → Option (List Token)
  | [] => some []
  | [.comma] => none
  | [t] => some [t]
  | t :: .comma :: u :: ts => if t = .comma then none else (operands (u :: ts)).map (t :: ·)
  | _ => none

/-- A shape-W operand: 0 to 2^32 - 1; anything else is refused, not truncated (30_encoding R50). -/
def wordOperand : Token → Option Word
  | .number n => if n < 2 ^ 32 then some (BitVec.ofNat 32 n) else none
  | _ => none

/-- A shape-B operand: 0 to 255 or one character; anything else is refused, not truncated (30_encoding R50). -/
def byteOperand : Token → Option Byte
  | .number n => if n < 256 then some (BitVec.ofNat 8 n) else none
  | .char c => some (BitVec.ofNat 8 c.toNat)
  | _ => none

/-- Every operand of a list, or nothing if one is refused. -/
def allOperands {α : Type} (f : Token → Option α) : List Token → Option (List α)
  | [] => some []
  | t :: ts => (f t).bind fun a => (allOperands f ts).map (a :: ·)

/-- A mnemonic with no operand. -/
def noOperand (i : Instr) : List Token → Option (List Instr)
  | [] => some [i]
  | _ => none

/-- A mnemonic with one operand. -/
def oneOperand {α : Type} (f : Token → Option α) (g : α → Instr) : List Token → Option (List Instr)
  | [t] => (f t).map fun a => [g a]
  | _ => none

/-- A macro over a text (30_encoding R51). -/
def textMacro (f : String → List Instr) : List Token → Option (List Instr)
  | [.text cs] => some (f (String.ofList cs))
  | _ => none

/-- The commands that a mnemonic or macro name with its operands stands for (30_encoding R50, R51). -/
def assembleNamed (name : String) (ts : List Token) : Option (List Instr) :=
  if name = "SEEDW" then oneOperand wordOperand .seedw ts
  else if name = "INIT" then noOperand .init ts
  else if name = "NEXT32" then noOperand .next32 ts
  else if name = "NEXT64" then noOperand .next64 ts
  else if name = "RSTATE" then noOperand .rstate ts
  else if name = "C16START" then noOperand .c16start ts
  else if name = "C16BYTE" then oneOperand byteOperand .c16byte ts
  else if name = "C16RESULT" then noOperand .c16result ts
  else if name = "C16RDT" then oneOperand byteOperand .c16rdt ts
  else if name = "C32START" then noOperand .c32start ts
  else if name = "C32BYTE" then oneOperand byteOperand .c32byte ts
  else if name = "C32RESULT" then noOperand .c32result ts
  else if name = "C32RDT" then oneOperand byteOperand .c32rdt ts
  else if name = "MKGEN" then (allOperands wordOperand ts).map mkgen
  else if name = "HASH16" then (allOperands byteOperand ts).map hash16
  else if name = "HASH32" then (allOperands byteOperand ts).map hash32
  else if name = "HASH16S" then textMacro hash16s ts
  else if name = "HASH32S" then textMacro hash32s ts
  else none

/-- One line of source text to the commands it stands for, in order: none for a blank line or a comment (30_encoding R50, R51). -/
def assembleLine (line : List Char) : Option (List Instr) :=
  (lex line).bind fun ts =>
    match ts with
    | [] => some []
    | .name cs :: rest => (operands rest).bind (assembleNamed (String.ofList cs))
    | _ => none

/-- An upper-case hexadecimal digit. -/
def hexDigit (n : Nat) : Char := if n < 10 then Char.ofNat (48 + n) else Char.ofNat (55 + n)

/-- The lowest `k` hexadecimal digits of a number, most significant first, before `rest`. -/
def hexDigits : Nat → Nat → List Char → List Char
  | 0, _, rest => rest
  | k + 1, n, rest => hexDigits k (n / 16) (hexDigit (n % 16) :: rest)

/-- A listing line: the encoding as ten hexadecimal digits, two spaces, the source (30_encoding R50). -/
def listing (i : Instr) (source : List Char) : List Char :=
  hexDigits 10 (encode i).toNat (' ' :: ' ' :: source)

end Sys2Proof.Machine
end

