-- ==== Sys2Proof/Safety.lean ====
section
/-! DEFINITION. What the claims are about: the invariants of 10_state R26 and the canonical form of the tables, when a command is
answered OK (60_exceptions R89, R90; 70 R106), and what two states have in common when one unit or the table cache is left out. -/

namespace Sys2Proof.Machine

/-- The bitwise or of the four words is not zero. -/
def Quad.NonZero (q : Quad) : Prop := q.w0 ||| q.w1 ||| q.w2 ||| q.w3 ≠ 0

/-- Invariant 1 of 10_state R26: a constructed GeneratorState is never all-zero. -/
def Prng.NonDegenerate (p : Prng) : Prop := p.valid = true → p.s.NonZero

/-- Every entry of the table has been written and is the function's value (10_state R26 item 3). -/
def CrcUnit.Built {width : Nat} (entry : Byte → BitVec width) (u : CrcUnit width) : Prop :=
  ∀ i : Byte, Table.lookup u.table i.toNat = some (entry i)

/-- Invariants 3 and 4 of 10_state R26 for one CRC unit: a valid table is built, and a hash is in progress only over a valid
table. -/
def CrcUnit.Coherent {width : Nat} (entry : Byte → BitVec width) (u : CrcUnit width) : Prop :=
  (u.tvalid = true → u.Built entry) ∧ (u.active = true → u.tvalid = true)

/-- The invariants of 10_state R26 (item 2, SEEDCNT at most 4, holds by the type of SEEDCNT). -/
def State.Inv (s : State) : Prop :=
  s.prng.NonDegenerate ∧ s.crc16.Coherent tab16 ∧ s.crc32.Coherent tab32

/-- Both table memories are in canonical form. -/
def State.TablesWf (s : State) : Prop := s.crc16.table.wf = true ∧ s.crc32.table.wf = true

/-- The code of the one error that the commands of a unit can answer once they have been decoded (60_exceptions R89). -/
def errorCode : BlockUnit → BitVec 4
  | .prng => 2
  | .crc16 => 3
  | .crc32 => 4

/-- The command's precondition (60_exceptions R89, R90; 70 R106): what must hold for it to be answered OK. -/
def Ready (i : Instr) (s : State) : Prop :=
  match i with
  | .seedw _ => True
  | .init => True
  | .next32 => s.prng.valid = true
  | .next64 => s.prng.valid = true
  | .rstate => s.prng.valid = true
  | .c16start => True
  | .c16byte _ => s.crc16.active = true
  | .c16result => s.crc16.active = true
  | .c16rdt _ => True
  | .c32start => True
  | .c32byte _ => s.crc32.active = true
  | .c32result => s.crc32.active = true
  | .c32rdt _ => True

/-- The response `respond(OK, data)`. -/
def okResponse (data : Data) : Response := ⟨.ok, data⟩

/-- The response of an error: data 0 (60_exceptions R91). -/
def errorResponse (e : Error) : Response := ⟨.error e, 0⟩

/-- The command goes from `s` to `t` and its response is `r`. -/
def Answers (i : Instr) (s : State) (r : Response) (t : State) : Prop :=
  exec i s = .next t ∧ t.port.responses = s.port.responses ++ [r]

/-- `t` has the responses of `s` and then `r`: the one response to the command between them (30_encoding R44). -/
def Responds (s t : State) (r : Response) : Prop := t.port.responses = s.port.responses ++ [r]

/-- The host's and the platform's side is unchanged: what is still to be taken, and the clock samples. -/
def KeepsInputs (s t : State) : Prop :=
  t.port.inbox = s.port.inbox ∧ t.port.clock = s.port.clock ∧ t.port.clockReads = s.port.clockReads

/-- The two states have the same block: every element of 10_state R13. -/
def SameBlock (s t : State) : Prop := s.prng = t.prng ∧ s.crc16 = t.crc16 ∧ s.crc32 = t.crc32

/-- The two states have the same PRNG unit and the same port, and may differ in the CRC units. -/
def SamePrngSide (s t : State) : Prop := s.prng = t.prng ∧ s.port = t.port

/-- Two states of a CRC unit that agree but for what has been cached: the table and its built flag (10_state R25). -/
def CrcUnit.SameButCache {width : Nat} (u v : CrcUnit width) : Prop := u.acc = v.acc ∧ u.active = v.active

/-- Two states that agree but for what has been cached in the CRC units (10_state R25). -/
def SameButCache (s t : State) : Prop :=
  s.prng = t.prng ∧ s.crc16.SameButCache t.crc16 ∧ s.crc32.SameButCache t.crc32 ∧ s.port = t.port

/-- Two states with the same CRC16 unit and the same port. -/
def SameCrc16Side (s t : State) : Prop := s.crc16 = t.crc16 ∧ s.port = t.port

/-- Two states with the same CRC32 unit and the same port. -/
def SameCrc32Side (s t : State) : Prop := s.crc32 = t.crc32 ∧ s.port = t.port

/-- The state with both tables built: eager instead of lazy building (10_state R25, U9). -/
def State.eager (s : State) : State := s.withT16.withT32

/-- The message bytes that a list of commands folds into the CRC-16 accumulator. -/
def bytesOf16 : List Instr → List Byte
  | [] => []
  | .c16byte b :: is => b :: bytesOf16 is
  | _ :: is => bytesOf16 is

/-- The message bytes that a list of commands folds into the CRC-32 accumulator. -/
def bytesOf32 : List Instr → List Byte
  | [] => []
  | .c32byte b :: is => b :: bytesOf32 is
  | _ :: is => bytesOf32 is

end Sys2Proof.Machine
end

