-- ==== Sys2Proof/Certificates/Slice0/Obligations.lean ====
section
/-! DEFINITION. The statements for the provers, from the numbered rules of spec/. `s.respond r` is `s` with the response `r` given to
the host and nothing else changed. The port (`inbox`, `responses`, `clock`, `clockReads`) is the model's own side of each clause (log
entries 4 and 8); what is said of the block's elements is the spec's. -/

open Sys2Proof Sys2Proof.Machine

/-! ### The 13 commands: encoding, effect, response, error, and everything left unchanged -/

/-- 40_seed R58. -/
def Obligations.SeedwAppendsOneSeedWord : Prop :=
  ∀ (w : Word) (s : State),
    encode (.seedw w) = (0x01#8 ++ w : BitVec 40) ∧
    ∃ t, exec (.seedw w) s = .next t ∧ Responds s t (okResponse 0) ∧ KeepsInputs s t ∧
      (s.prng.seedCnt.val < 4 →
        t.prng.seedCnt.val = s.prng.seedCnt.val + 1 ∧
        ∀ i : Fin 4, t.prng.seed.get i = if i.val = s.prng.seedCnt.val then w else s.prng.seed.get i) ∧
      (s.prng.seedCnt.val = 4 → t.prng.seed = s.prng.seed ∧ t.prng.seedCnt = s.prng.seedCnt) ∧
      t.prng.s = s.prng.s ∧ t.prng.valid = s.prng.valid ∧ t.crc16 = s.crc16 ∧ t.crc32 = s.crc32

/-- 40_seed R59, for every value of the clock inputs: `d` is the draw, and with seed words collected the result is the same for all
of them. -/
def Obligations.InitConstructsTheGenerator : Prop :=
  ∀ s : State,
    let ws := s.prng.seed.toList.take s.prng.seedCnt.val
    encode .init = 0x0200000000#40 ∧
    ∃ t, exec .init s = .next t ∧ Responds s t (okResponse 0) ∧
      (∃ d, t.prng.s = construct ws d) ∧
      (s.prng.seedCnt.val ≠ 0 → (∀ d, t.prng.s = construct ws d) ∧ KeepsInputs s t) ∧
      t.prng.valid = true ∧ t.prng.seedCnt.val = 0 ∧ t.prng.seed = s.prng.seed ∧
      t.crc16 = s.crc16 ∧ t.crc32 = s.crc32 ∧ t.port.inbox = s.port.inbox

/-- 41_prng R64 and R65. -/
def Obligations.Next32AdvancesOneStep : Prop :=
  ∀ s : State,
    encode .next32 = 0x0300000000#40 ∧
    (s.prng.valid = true →
      let n := s.prng.s.w0 ^^^ (s.prng.s.w0 <<< 11)
      let r := n ^^^ (n >>> 8) ^^^ s.prng.s.w3 ^^^ (s.prng.s.w3 >>> 19)
      ∃ t, exec .next32 s = .next t ∧ Responds s t (okResponse (r.setWidth 128)) ∧ KeepsInputs s t ∧
        t.prng.s = ⟨s.prng.s.w1, s.prng.s.w2, s.prng.s.w3, r⟩ ∧ t.prng.valid = true ∧
        t.prng.seed = s.prng.seed ∧ t.prng.seedCnt = s.prng.seedCnt ∧ t.crc16 = s.crc16 ∧ t.crc32 = s.crc32) ∧
    (s.prng.valid = false → exec .next32 s = .next (s.respond (errorResponse .prngUninit)))

/-- 41_prng R66 and R67: `u3` is computed from the new S[2], `u2`. -/
def Obligations.Next64AdvancesTheWideStep : Prop :=
  ∀ s : State,
    encode .next64 = 0x0400000000#40 ∧
    (s.prng.valid = true →
      let n1 := s.prng.s.w0 ^^^ (s.prng.s.w0 <<< 11)
      let n3 := n1 ^^^ (n1 >>> 8) ^^^ s.prng.s.w3
      let u2 := n3 ^^^ (s.prng.s.w3 >>> 19)
      let m := s.prng.s.w1 ^^^ (s.prng.s.w1 <<< 11)
      let u3 := m ^^^ (m >>> 8) ^^^ u2 ^^^ (n3 >>> 19)
      ∃ t, exec .next64 s = .next t ∧ Responds s t (okResponse ((u2 ++ u3 : BitVec 64).setWidth 128)) ∧
        KeepsInputs s t ∧ t.prng.s = ⟨s.prng.s.w2, s.prng.s.w3, u2, u3⟩ ∧ t.prng.valid = true ∧
        t.prng.seed = s.prng.seed ∧ t.prng.seedCnt = s.prng.seedCnt ∧ t.crc16 = s.crc16 ∧ t.crc32 = s.crc32) ∧
    (s.prng.valid = false → exec .next64 s = .next (s.respond (errorResponse .prngUninit)))

/-- 41_prng R69: S[i] at bits 32i+31 to 32i of the data, and no state written. -/
def Obligations.RstateShowsTheState : Prop :=
  ∀ s : State,
    encode .rstate = 0x0500000000#40 ∧
    (s.prng.valid = true → ∃ d : Data, exec .rstate s = .next (s.respond (okResponse d)) ∧
      ∀ i : Fin 4, d.extractLsb' (32 * i.val) 32 = s.prng.s.get i) ∧
    (s.prng.valid = false → exec .rstate s = .next (s.respond (errorResponse .prngUninit)))

/-- 42_crc16 R75. -/
def Obligations.C16startBeginsAHash : Prop :=
  ∀ s : State,
    encode .c16start = 0x1000000000#40 ∧
    ∃ t, exec .c16start s = .next t ∧ Responds s t (okResponse 0) ∧ KeepsInputs s t ∧
      t.crc16.acc = 0x0000 ∧ t.crc16.active = true ∧ t.crc16.tvalid = true ∧
      (s.crc16.tvalid = false → ∀ i : Byte, Table.lookup t.crc16.table i.toNat = some (tab16 i)) ∧
      (s.crc16.tvalid = true → t.crc16.table = s.crc16.table) ∧
      t.prng = s.prng ∧ t.crc32 = s.crc32

/-- 42_crc16 R76 (and R73 for the last clause, where the table is the built one). -/
def Obligations.C16byteFoldsOneByte : Prop :=
  ∀ (b : Byte) (s : State),
    encode (.c16byte b) = (0x11000000#32 ++ b : BitVec 40) ∧
    (s.crc16.active = true →
      let index := b ^^^ s.crc16.acc.extractLsb' 0 8
      ∃ t, exec (.c16byte b) s = .next t ∧ Responds s t (okResponse 0) ∧ KeepsInputs s t ∧
        t.crc16.acc = readT16 s index ^^^ (s.crc16.acc >>> 8) ∧
        (s.crc16.Coherent tab16 → t.crc16.acc = fold16 s.crc16.acc b) ∧
        t.crc16.table = s.crc16.table ∧ t.crc16.tvalid = s.crc16.tvalid ∧ t.crc16.active = true ∧
        t.prng = s.prng ∧ t.crc32 = s.crc32) ∧
    (s.crc16.active = false → exec (.c16byte b) s = .next (s.respond (errorResponse .c16Idle)))

/-- 42_crc16 R77. -/
def Obligations.C16resultReadsTheAccumulator : Prop :=
  ∀ s : State,
    encode .c16result = 0x1200000000#40 ∧
    (s.crc16.active = true →
      exec .c16result s = .next (s.respond (okResponse (0#112 ++ s.crc16.acc : BitVec 128)))) ∧
    (s.crc16.active = false → exec .c16result s = .next (s.respond (errorResponse .c16Idle)))

/-- 42_crc16 R78. A valid table holds the built entries in every state that meets the invariant (10_state R26 item 3). -/
def Obligations.C16rdtReadsATableEntry : Prop :=
  ∀ (i : Byte) (s : State),
    encode (.c16rdt i) = (0x13000000#32 ++ i : BitVec 40) ∧
    ∃ t, exec (.c16rdt i) s = .next t ∧ Responds s t (okResponse ((readT16 t i).setWidth 128)) ∧ KeepsInputs s t ∧
      (s.crc16.Coherent tab16 → Responds s t (okResponse ((tab16 i).setWidth 128))) ∧
      t.crc16.tvalid = true ∧
      (s.crc16.tvalid = false → ∀ k : Byte, Table.lookup t.crc16.table k.toNat = some (tab16 k)) ∧
      (s.crc16.tvalid = true → t.crc16.table = s.crc16.table) ∧
      t.crc16.acc = s.crc16.acc ∧ t.crc16.active = s.crc16.active ∧ t.prng = s.prng ∧ t.crc32 = s.crc32

/-- 43_crc32 R84. -/
def Obligations.C32startBeginsAHash : Prop :=
  ∀ s : State,
    encode .c32start = 0x2000000000#40 ∧
    ∃ t, exec .c32start s = .next t ∧ Responds s t (okResponse 0) ∧ KeepsInputs s t ∧
      t.crc32.acc = 0xFFFFFFFF ∧ t.crc32.active = true ∧ t.crc32.tvalid = true ∧
      (s.crc32.tvalid = false → ∀ i : Byte, Table.lookup t.crc32.table i.toNat = some (tab32 i)) ∧
      (s.crc32.tvalid = true → t.crc32.table = s.crc32.table) ∧
      t.prng = s.prng ∧ t.crc16 = s.crc16

/-- 43_crc32 R85 (and R82 for the clause where the table is the built one). -/
def Obligations.C32byteFoldsOneByte : Prop :=
  ∀ (b : Byte) (s : State),
    encode (.c32byte b) = (0x21000000#32 ++ b : BitVec 40) ∧
    (s.crc32.active = true →
      let index := b ^^^ s.crc32.acc.extractLsb' 0 8
      ∃ t, exec (.c32byte b) s = .next t ∧ Responds s t (okResponse 0) ∧ KeepsInputs s t ∧
        t.crc32.acc = readT32 s index ^^^ (s.crc32.acc >>> 8) ∧
        (s.crc32.Coherent tab32 → t.crc32.acc = fold32 s.crc32.acc b) ∧
        t.crc32.table = s.crc32.table ∧ t.crc32.tvalid = s.crc32.tvalid ∧ t.crc32.active = true ∧
        t.prng = s.prng ∧ t.crc16 = s.crc16) ∧
    (s.crc32.active = false → exec (.c32byte b) s = .next (s.respond (errorResponse .c32Idle)))

/-- 43_crc32 R86: the complement is on 32 bits, and only in the response. -/
def Obligations.C32resultReadsTheComplement : Prop :=
  ∀ s : State,
    encode .c32result = 0x2200000000#40 ∧
    (s.crc32.active = true →
      exec .c32result s = .next (s.respond (okResponse (0#96 ++ (s.crc32.acc ^^^ 0xFFFFFFFF#32) : BitVec 128)))) ∧
    (s.crc32.active = false → exec .c32result s = .next (s.respond (errorResponse .c32Idle)))

/-- 43_crc32 R87. -/
def Obligations.C32rdtReadsATableEntry : Prop :=
  ∀ (i : Byte) (s : State),
    encode (.c32rdt i) = (0x23000000#32 ++ i : BitVec 40) ∧
    ∃ t, exec (.c32rdt i) s = .next t ∧ Responds s t (okResponse ((readT32 t i).setWidth 128)) ∧ KeepsInputs s t ∧
      (s.crc32.Coherent tab32 → Responds s t (okResponse ((tab32 i).setWidth 128))) ∧
      t.crc32.tvalid = true ∧
      (s.crc32.tvalid = false → ∀ k : Byte, Table.lookup t.crc32.table k.toNat = some (tab32 k)) ∧
      (s.crc32.tvalid = true → t.crc32.table = s.crc32.table) ∧
      t.crc32.acc = s.crc32.acc ∧ t.crc32.active = s.crc32.active ∧ t.prng = s.prng ∧ t.crc16 = s.crc16

/-! ### Frames -/

/-- 10_state R21, the "w" entries, with R14 to R20: each element is written by no command but the ones the table marks. -/
def Obligations.OnlyTheMarkedCommandsWriteAnElement : Prop :=
  ∀ (i : Instr) (s t : State), exec i s = .next t →
    (i ≠ .init ∧ i ≠ .next32 ∧ i ≠ .next64 → t.prng.s = s.prng.s) ∧
    (i ≠ .init → t.prng.valid = s.prng.valid) ∧
    ((∀ w, i ≠ .seedw w) → t.prng.seed = s.prng.seed) ∧
    ((∀ w, i ≠ .seedw w) ∧ i ≠ .init → t.prng.seedCnt = s.prng.seedCnt) ∧
    (i ≠ .c16start ∧ (∀ k, i ≠ .c16rdt k) →
      t.crc16.tvalid = s.crc16.tvalid ∧ ∀ k : Byte, readT16 t k = readT16 s k) ∧
    (i ≠ .c16start ∧ (∀ b, i ≠ .c16byte b) → t.crc16.acc = s.crc16.acc) ∧
    (i ≠ .c16start → t.crc16.active = s.crc16.active) ∧
    (i ≠ .c32start ∧ (∀ k, i ≠ .c32rdt k) →
      t.crc32.tvalid = s.crc32.tvalid ∧ ∀ k : Byte, readT32 t k = readT32 s k) ∧
    (i ≠ .c32start ∧ (∀ b, i ≠ .c32byte b) → t.crc32.acc = s.crc32.acc) ∧
    (i ≠ .c32start → t.crc32.active = s.crc32.active)

/-- 00_scope R2: no command of one unit changes the state of another; every table entry of another unit reads as before. -/
def Obligations.NoCommandChangesAnotherUnit : Prop :=
  ∀ (i : Instr) (s t : State), exec i s = .next t →
    (i.unit ≠ .prng → t.prng = s.prng) ∧
    (i.unit ≠ .crc16 → t.crc16 = s.crc16 ∧ ∀ k : Byte, readT16 t k = readT16 s k) ∧
    (i.unit ≠ .crc32 → t.crc32 = s.crc32 ∧ ∀ k : Byte, readT32 t k = readT32 s k)

/-- 00_scope R2: no unit reads the state of another. Two states that agree in the command's own unit and in the port give the same
responses and agree so again. -/
def Obligations.NoCommandReadsAnotherUnit : Prop :=
  ∀ (i : Instr) (s s' : State),
    (i.unit = .prng → SamePrngSide s s' →
      ∃ t t', exec i s = .next t ∧ exec i s' = .next t' ∧ SamePrngSide t t') ∧
    (i.unit = .crc16 → SameCrc16Side s s' →
      ∃ t t', exec i s = .next t ∧ exec i s' = .next t' ∧ SameCrc16Side t t') ∧
    (i.unit = .crc32 → SameCrc32Side s s' →
      ∃ t t', exec i s = .next t ∧ exec i s' = .next t' ∧ SameCrc32Side t t')

/-- 10_state R17, R19 and 70 R109: once built, a table is read-only; every entry reads as before and the flag stays. -/
def Obligations.ABuiltTableIsNeverWritten : Prop :=
  ∀ (i : Instr) (s t : State), exec i s = .next t →
    (s.crc16.tvalid = true → t.crc16.tvalid = true ∧ ∀ k : Byte, readT16 t k = readT16 s k) ∧
    (s.crc32.tvalid = true → t.crc32.tvalid = true ∧ ∀ k : Byte, readT32 t k = readT32 s k)

/-- 10_state R24: the clock inputs are sampled by an INIT that finds SEEDCNT = 0 and by nothing else. In the model's terms (log entry
8) every other command leaves the draws, and what the host does next, as they were. -/
def Obligations.OnlyAnUnseededInitSamplesTheClock : Prop :=
  ∀ (i : Instr) (s t : State), exec i s = .next t →
    t.port.inbox = s.port.inbox ∧
    (¬ (i = .init ∧ s.prng.seedCnt.val = 0) → KeepsInputs s t)

/-- 10_state R24, 40_seed R57: with seed words collected, INIT's result does not depend on the clock. -/
def Obligations.ASeededInitIgnoresTheClock : Prop :=
  ∀ (s : State) (ds : List ClockSample) (n : Nat), s.prng.seedCnt.val ≠ 0 →
    ∃ t t', exec .init s = .next t ∧
      exec .init (s.setPort { s.port with clock := ds, clockReads := n }) = .next t' ∧
      t.prng = t'.prng ∧ t.prng.s = construct s.prng.words ⟨0, false⟩

/-- 40_seed R57, R59, 60_exceptions R97: with no seed word, INIT uses the platform's next sample if one is listed (first clause), and
else the free value of that draw (second clause; the model's form, log entry 8; it holds for every value of the two constants). -/
def Obligations.AnUnseededInitUsesOneClockDraw : Prop :=
  ∀ s : State, s.prng.seedCnt.val = 0 →
    (∀ d ds, s.port.clock = d :: ds →
      ∃ t, exec .init s = .next t ∧ t.prng.s = expand1 (if d.ok = true then d.seed else 0) ∧
        t.port.clock = ds ∧ t.port.clockReads = s.port.clockReads) ∧
    (s.port.clock = [] →
      ∃ t, exec .init s = .next t ∧
        t.prng.s = expand1 (if Config.timeOk s.port.clockReads = true then Config.timeSeed s.port.clockReads else 0) ∧
        t.port.clock = [] ∧ t.port.clockReads = s.port.clockReads + 1)

/-- 70 R110: seed words stay, in place and in order, across every command but INIT. -/
def Obligations.SeedWordsStayUntilInit : Prop :=
  ∀ (i : Instr) (s t : State), exec i s = .next t → i ≠ .init →
    s.prng.seedCnt.val ≤ t.prng.seedCnt.val ∧ s.prng.words <+: t.prng.words

/-- 10_state R23, R15, R18, R20: a flag is set by the commands named for it and by no other, and no command clears one. -/
def Obligations.NoCommandClearsAFlag : Prop :=
  ∀ (i : Instr) (s t : State), exec i s = .next t →
    (t.prng.valid = true ↔ s.prng.valid = true ∨ i = .init) ∧
    (t.crc16.tvalid = true ↔ s.crc16.tvalid = true ∨ i = .c16start ∨ ∃ k, i = .c16rdt k) ∧
    (t.crc16.active = true ↔ s.crc16.active = true ∨ i = .c16start) ∧
    (t.crc32.tvalid = true ↔ s.crc32.tvalid = true ∨ i = .c32start ∨ ∃ k, i = .c32rdt k) ∧
    (t.crc32.active = true ↔ s.crc32.active = true ∨ i = .c32start)

/-! ### Responses and errors -/

/-- 30_encoding R44, 20_memory R37: every command gives exactly one response; data is 0 for every error; the status code is one of 0
to 4. -/
def Obligations.EveryCommandGivesOneResponse : Prop :=
  ∀ (i : Instr) (s : State), ∃ t r, Answers i s r t ∧
    (r.status ≠ .ok → r.data = 0) ∧ r.status.code.toNat ≤ 4

/-- 60_exceptions R89, R90, 70 R106: a command answers OK (code 0) exactly when its precondition holds, and otherwise the error of its
unit (code 2, 3 or 4) with data 0. -/
def Obligations.OkExactlyWhenReady : Prop :=
  ∀ (i : Instr) (s t : State) (r : Response), Answers i s r t →
    (r.status.code = 0 ↔ Ready i s) ∧
    (¬ Ready i s → r.status.code = errorCode i.unit ∧ r.data = 0)

/-- 60_exceptions R91: a command word that is answered by an error changes no element of the block, in any unit, and carries data 0. -/
def Obligations.AnErrorChangesNothing : Prop :=
  ∀ (word : CmdWord) (s t : State) (r : Response), issue word s = .next t → Responds s t r → r.status ≠ .ok →
    r.data = 0 ∧ SameBlock s t ∧ KeepsInputs s t

/-- 60_exceptions R94: after an error the same word answers the same error again, at once or after any commands that do not remove the
cause: INIT for E_PRNG_UNINIT, C16START for E_C16_IDLE, C32START for E_C32_IDLE, and none for E_ILLEGAL ("always"). -/
def Obligations.AnErrorRepeatsUntilItsCauseIsRemoved : Prop :=
  ∀ (word : CmdWord) (s t : State) (r : Response), issue word s = .next t → Responds s t r → r.status ≠ .ok →
    ∀ between : List Instr,
      (r.status = .error .prngUninit → .init ∉ between) →
      (r.status = .error .c16Idle → .c16start ∉ between) →
      (r.status = .error .c32Idle → .c32start ∉ between) →
      ∃ u v, execAll between t = .next u ∧ issue word u = .next v ∧ Responds u v r

/-- 30_encoding R48: a word that matches no row of the opcode map is not performed, in whatever state: the answer is E_ILLEGAL (code 1)
with data 0, and nothing changes. -/
def Obligations.AnIllegalWordIsAnsweredEIllegal : Prop :=
  ∀ (word : CmdWord) (s : State), legalWord word = false →
    ∃ t r, issue word s = .next t ∧ Responds s t r ∧ r.status.code = 1 ∧ r.data = 0 ∧ SameBlock s t ∧ KeepsInputs s t

/-! ### Encoding -/

/-- 30_encoding R47: `decode(encode(c)) = c` for every command. -/
def Obligations.DecodeInvertsEncode : Prop :=
  ∀ i : Instr, decode (encode i) = .ok i

/-- 30_encoding R47: `encode(decode(cmd)) = cmd` for every word that is not illegal; so no bit of a legal word is ignored. -/
def Obligations.EncodeInvertsDecode : Prop :=
  ∀ (word : CmdWord) (i : Instr), decode word = .ok i → encode i = word

/-- 30_encoding R46, R48: the decoder accepts exactly the words that fit a row of the opcode map, as that row's command. -/
def Obligations.DecodeAcceptsExactlyTheRows : Prop :=
  ∀ word : CmdWord,
    ((∃ i, decode word = .ok i) ↔ legalWord word = true) ∧
    ∀ i, decode word = .ok i → ∃ r ∈ opcodeRows, r.fits word = true ∧ r.mnemonic = i.mnemonic

/-- 30_encoding R46: the rows are pairwise disjoint. -/
def Obligations.NoWordFitsTwoRows : Prop :=
  ∀ word : CmdWord, (opcodeRows.filter fun r => r.fits word).length ≤ 1

/-- 30_encoding R46, 95_test_vectors V8: words written out from the opcode map, legal and illegal neighbours. -/
def Obligations.WrittenOutWordsDecode : Prop :=
  decode 0x01000000C8#40 = .ok (.seedw 200) ∧ decode 0x0300000000#40 = .ok .next32 ∧
  decode 0x0380000000#40 = .error (.argNotZero 0x03) ∧ decode 0x1100000031#40 = .ok (.c16byte 0x31) ∧
  decode 0x1100000100#40 = .error (.argNotByte 0x11) ∧ decode 0x23000000FF#40 = .ok (.c32rdt 0xFF) ∧
  decode 0x0000000000#40 = .error (.unknownOp 0x00)

/-! ### The step -/

/-- 00_scope R7, 30_encoding R47: a step takes the host's next command word, and when it decodes to `i`, the step is `exec i` on the
state from whose port the word has been taken. -/
def Obligations.StepRunsTheDecodedCommand : Prop :=
  ∀ (s : State) (word : CmdWord) (rest : List HostEvent) (i : Instr),
    s.port.inbox = .command word :: rest → decode word = .ok i →
    step s = exec i (s.setPort { s.port with inbox := rest })

/-- 60_exceptions R102: with no command to take, the block holds its state (the step itself is the model's, log entry 5). -/
def Obligations.WithNoEventTheStateIsHeld : Prop :=
  ∀ s : State, s.port.inbox = [] → step s = .next s

/-- 70 R103, R104: the reset event puts every unit into the reset state and gives no response. What S, SEED, ACC16, ACC32 and the tables
hold then is the model's choice (log entries 1, 2 and 6). -/
def Obligations.ResetEventGivesTheResetState : Prop :=
  ∀ (s : State) (rest : List HostEvent), s.port.inbox = .reset :: rest →
    ∃ t, step s = .next t ∧ t.prng = State.reset.prng ∧ t.crc16 = State.reset.crc16 ∧ t.crc32 = State.reset.crc32 ∧
      t.port = { s.port with inbox := rest }

/-- 10_state R27: the six fields with a reset value. -/
def Obligations.ResetClearsTheFlags : Prop :=
  State.reset.prng.valid = false ∧ State.reset.prng.seedCnt = 0 ∧
  State.reset.crc16.tvalid = false ∧ State.reset.crc16.active = false ∧
  State.reset.crc32.tvalid = false ∧ State.reset.crc32.active = false

/-- 00_scope R7, 70 R112: every step completes, in every state; no operation is fatal. -/
def Obligations.EveryStepCompletes : Prop :=
  ∀ s : State, ∃ t, step s = .next t

/-- 70 R113, 20_memory R37: issuing the encodings of a list of commands and stepping once for each is `execAll` of the list: all done,
in order, none dropped or merged. -/
def Obligations.SteppingRunsTheCommandsInOrder : Prop :=
  ∀ (is : List Instr) (s : State), s.port.inbox = [] →
    ∃ t, execAll is s = .next t ∧ t.port.responses.length = s.port.responses.length + is.length ∧
      Host.Core.run Sys2Proof.core is.length
        (s.setPort { s.port with inbox := is.map fun i => .command (encode i) }) = .next t

/-! ### Invariants -/

/-- 10_state R26: a step from any state that meets the invariants leads to one that meets them. -/
def Obligations.StepKeepsTheInvariants : Prop :=
  ∀ s t : State, s.Inv → step s = .next t → t.Inv

/-- The table memories stay in canonical form under every step, from any state where they are (20_memory R29 to R31, R35). -/
def Obligations.StepKeepsTheTablesCanonical : Prop :=
  ∀ s t : State, s.TablesWf → step s = .next t → t.TablesWf

/-- 10_state R26, R27: the reset state meets the invariants, and its tables are in canonical form. -/
def Obligations.ResetMeetsTheInvariants : Prop :=
  State.reset.Inv ∧ State.reset.TablesWf

/-! ### Seed expansion and generator -/

/-- 40_seed R61: construction never yields the all-zero state, whatever the seed words and the clock. -/
def Obligations.ConstructionIsNeverAllZero : Prop :=
  ∀ (ws : List Word) (d : ClockSample), (construct ws d).NonZero

/-- 41_prng R70 (2), R65: a state is not all-zero after a step exactly when it was not before. -/
def Obligations.StepsKeepTheStateNonZero : Prop :=
  ∀ q : Quad, ((step32 q).1.NonZero ↔ q.NonZero) ∧ ((step64 q).1.NonZero ↔ q.NonZero)

/-- 41_prng R68: the 64-bit step is two 32-bit steps, the first output in the high half. -/
def Obligations.TheWideStepIsTwoSteps : Prop :=
  ∀ q : Quad,
    step64 q = ((step32 (step32 q).1).1,
      ((step32 q).2.setWidth 64 <<< 32) ||| (step32 (step32 q).1).2.setWidth 64)

/-- 40_seed R60, 30_encoding R51: MKGEN of any non-empty list of seed words constructs from the first four of them, answers OK
throughout, and does not depend on the clock. -/
def Obligations.MkgenUsesTheFirstFourWords : Prop :=
  ∀ (ws : List Word) (s : State), ws ≠ [] → s.prng.seedCnt.val = 0 →
    ∃ t, execAll (mkgen ws) s = .next t ∧ t.prng.valid = true ∧ t.prng.seedCnt.val = 0 ∧
      (∀ d, t.prng.s = construct (ws.take 4) d) ∧
      t.port.responses = s.port.responses ++ List.replicate (ws.length + 1) (okResponse 0)

/-- 40_seed R60, R57: two or three seed words are padded with zeros, and one word is not. -/
def Obligations.PartialSeedsArePaddedWithZeros : Prop :=
  ∀ (a b c : Word) (d : ClockSample),
    construct [a, b] d = construct [a, b, 0, 0] d ∧ construct [a, b, c] d = construct [a, b, c, 0] d ∧
    construct [a] d = expand1 a ∧ construct [0, 0, 0, 0] d = ⟨1, 0x6C078967, 0x714ACB41, 0x48077044⟩

/-! ### The CRC engines -/

/-- 42_crc16 R79 (1), (2): from any started hash over a valid table, after any commands but C16START, of any unit and in any order, the
accumulator is the fold of the bytes given since. -/
def Obligations.Crc16StreamIsTheFold : Prop :=
  ∀ (is : List Instr) (s : State), .c16start ∉ is → s.crc16.active = true → s.crc16.Coherent tab16 →
    ∃ t, execAll is s = .next t ∧ t.crc16.acc = (bytesOf16 is).foldl fold16 s.crc16.acc ∧
      t.crc16.active = true ∧ t.crc16.Coherent tab16

/-- 43_crc32 R88 (1), (2). -/
def Obligations.Crc32StreamIsTheFold : Prop :=
  ∀ (is : List Instr) (s : State), .c32start ∉ is → s.crc32.active = true → s.crc32.Coherent tab32 →
    ∃ t, execAll is s = .next t ∧ t.crc32.acc = (bytesOf32 is).foldl fold32 s.crc32.acc ∧
      t.crc32.active = true ∧ t.crc32.Coherent tab32

/-- 42_crc16 R71, R74, R79: C16START, the bytes of any message, C16RESULT answer the CRC-16 of the message. -/
def Obligations.Hash16AnswersCrc16 : Prop :=
  ∀ (bytes : List Byte) (s : State), s.crc16.Coherent tab16 →
    ∃ t, execAll (hash16 bytes) s = .next t ∧
      t.port.responses = s.port.responses ++ List.replicate (bytes.length + 1) (okResponse 0) ++
        [okResponse ((crc16 bytes).setWidth 128)]

/-- 43_crc32 R80, R83, R88: C32START, the bytes of any message, C32RESULT answer the CRC-32 of the message. -/
def Obligations.Hash32AnswersCrc32 : Prop :=
  ∀ (bytes : List Byte) (s : State), s.crc32.Coherent tab32 →
    ∃ t, execAll (hash32 bytes) s = .next t ∧
      t.port.responses = s.port.responses ++ List.replicate (bytes.length + 1) (okResponse 0) ++
        [okResponse ((crc32 bytes).setWidth 128)]

/-- 10_state R25, 93 U9: no response of any command sequence depends on what has been cached. Two states that meet the invariants and
agree but for the tables and their built flags give the same responses, and agree so again. -/
def Obligations.TheTableCacheCannotBeObserved : Prop :=
  ∀ (is : List Instr) (s s' : State), s.Inv → s'.Inv → SameButCache s s' →
    ∃ t t', execAll is s = .next t ∧ execAll is s' = .next t' ∧ SameButCache t t'

/-- 10_state R25: building both tables eagerly keeps the invariants and changes nothing but the cache. -/
def Obligations.EagerBuildingChangesOnlyTheCache : Prop :=
  ∀ s : State, s.Inv → s.eager.Inv ∧ SameButCache s s.eager ∧
    s.eager.crc16.tvalid = true ∧ s.eager.crc32.tvalid = true

/-- 42_crc16 R76: leading zero bytes do not change a CRC-16. -/
def Obligations.LeadingZeroBytesDoNotChangeCrc16 : Prop :=
  ∀ (n : Nat) (bytes : List Byte), crc16 (List.replicate n 0 ++ bytes) = crc16 bytes

/-- 20_memory R31, R34: the table build is the 256 writes, index 0 to 255, each location once: a read of any other entry's place is not
left over from before, whatever the memory held. -/
def Obligations.TheBuiltTableHoldsEveryEntry : Prop :=
  ∀ (s : State) (i : Byte), s.crc16.tvalid = false → s.crc32.tvalid = false →
    readT16 s.withT16 i = tab16 i ∧ readT32 s.withT32 i = tab32 i

/-! ### Several blocks, and the assembler -/

/-- 20_memory R41: a step of one block reads or changes nothing of another. -/
def Obligations.BlocksShareNothing : Prop :=
  ∀ (sys : System) (k : Nat) (s : State), sys[k]? = some s →
    ∃ t sys', step s = .next t ∧ System.stepBlock sys k = some (.next sys') ∧
      sys'[k]? = some t ∧ ∀ j, j ≠ k → sys'[j]? = sys[j]?

/-- 30_encoding R50: an operand out of its range is refused, not truncated. -/
def Obligations.AssemblerRefusesOutOfRangeOperands : Prop :=
  ∀ n : Nat,
    (∀ w : Word, wordOperand (.number n) = some w ↔ w.toNat = n) ∧
    (∀ b : Byte, byteOperand (.number n) = some b ↔ b.toNat = n)
end

