-- ==== Sys2Proof/Laws/Encoding.lean ====
section
/-! SUPPORT. The two fields of a packed command word, and what a mask leaves of it (30_encoding R43, R46). -/

namespace Sys2Proof.Laws

@[simp] theorem opOf_pack (op : Byte) (arg : Word) : opOf (pack op arg) = op := by
  simp only [opOf, pack]
  ext i hi
  simp only [BitVec.getElem_extractLsb', BitVec.getLsbD_append]
  rw [if_neg (by omega), Nat.add_sub_cancel_left]
  simp [BitVec.getLsbD_eq_getElem hi]

@[simp] theorem argOf_pack (op : Byte) (arg : Word) : argOf (pack op arg) = arg := by
  simp only [argOf, pack]
  ext i hi
  simp only [BitVec.getElem_extractLsb', BitVec.getLsbD_append]
  rw [if_pos (by omega)]
  simp [BitVec.getLsbD_eq_getElem hi]

/-- A word is the packing of its two fields: no bit lies outside them. -/
theorem pack_opOf_argOf (cmd : CmdWord) : pack (opOf cmd) (argOf cmd) = cmd := by
  simp only [pack, opOf, argOf]
  ext i hi
  simp only [BitVec.getElem_append, BitVec.getElem_extractLsb']
  split
  · simp [BitVec.getLsbD_eq_getElem hi]
  · rw [show 32 + (i - 32) = i by omega, BitVec.getLsbD_eq_getElem hi]

/-- Masking acts on the fields separately. -/
theorem pack_and_pack (op m : Byte) (arg n : Word) : pack op arg &&& pack m n = pack (op &&& m) (arg &&& n) := by
  have h : (op ++ arg) &&& (m ++ n) = (op &&& m) ++ (arg &&& n) := by
    ext i hi
    simp only [BitVec.getElem_and, BitVec.getElem_append]
    split <;> rfl
  exact h

/-- A zero-extended byte has nothing above bit 7. -/
theorem zext_byte_high (b : Byte) : (b.setWidth 32).extractLsb' 8 24 = 0#24 := by
  ext i hi
  simp

/-- The low byte of a zero-extended byte is the byte. -/
theorem zext_byte_low (b : Byte) : (b.setWidth 32).extractLsb' 0 8 = b := by
  ext i hi
  simp [BitVec.getLsbD_eq_getElem hi]
  omega

/-- A word with nothing above bit 7 is the zero extension of its low byte. -/
theorem zext_of_high_zero (w : Word) (h : w.extractLsb' 8 24 = 0#24) : (w.extractLsb' 0 8).setWidth 32 = w := by
  ext i hi
  by_cases hlt : i < 8
  · simp [hlt, BitVec.getLsbD_eq_getElem hi]
  · have := congrArg (fun v => v.getLsbD (i - 8)) h
    simp only [BitVec.getLsbD_extractLsb', BitVec.getLsbD_zero] at this
    rw [show 8 + (i - 8) = i by omega] at this
    simp [hlt]
    simpa [show i - 8 < 24 by omega, BitVec.getLsbD_eq_getElem hi] using this

end Sys2Proof.Laws
end

