-- ==== Sys2Proof/Laws/State.lean ====
section
/-! SUPPORT. One lemma per field per update of the state, and what the shared operations answer. -/

namespace Sys2Proof.Laws

open Sys2Proof.Machine

/-! ### One unit, or the port, written -/

@[simp] theorem setPrng_prng (s : State) (p : Prng) : (s.setPrng p).prng = p := rfl
@[simp] theorem setPrng_crc16 (s : State) (p : Prng) : (s.setPrng p).crc16 = s.crc16 := rfl
@[simp] theorem setPrng_crc32 (s : State) (p : Prng) : (s.setPrng p).crc32 = s.crc32 := rfl
@[simp] theorem setPrng_port (s : State) (p : Prng) : (s.setPrng p).port = s.port := rfl

@[simp] theorem setCrc16_prng (s : State) (u : CrcUnit 16) : (s.setCrc16 u).prng = s.prng := rfl
@[simp] theorem setCrc16_crc16 (s : State) (u : CrcUnit 16) : (s.setCrc16 u).crc16 = u := rfl
@[simp] theorem setCrc16_crc32 (s : State) (u : CrcUnit 16) : (s.setCrc16 u).crc32 = s.crc32 := rfl
@[simp] theorem setCrc16_port (s : State) (u : CrcUnit 16) : (s.setCrc16 u).port = s.port := rfl

@[simp] theorem setCrc32_prng (s : State) (u : CrcUnit 32) : (s.setCrc32 u).prng = s.prng := rfl
@[simp] theorem setCrc32_crc16 (s : State) (u : CrcUnit 32) : (s.setCrc32 u).crc16 = s.crc16 := rfl
@[simp] theorem setCrc32_crc32 (s : State) (u : CrcUnit 32) : (s.setCrc32 u).crc32 = u := rfl
@[simp] theorem setCrc32_port (s : State) (u : CrcUnit 32) : (s.setCrc32 u).port = s.port := rfl

@[simp] theorem setPort_prng (s : State) (p : Port) : (s.setPort p).prng = s.prng := rfl
@[simp] theorem setPort_crc16 (s : State) (p : Port) : (s.setPort p).crc16 = s.crc16 := rfl
@[simp] theorem setPort_crc32 (s : State) (p : Port) : (s.setPort p).crc32 = s.crc32 := rfl
@[simp] theorem setPort_port (s : State) (p : Port) : (s.setPort p).port = p := rfl

@[simp] theorem writeS_s (s : State) (q : Quad) : (s.writeS q).prng.s = q := rfl
@[simp] theorem writeS_valid (s : State) (q : Quad) : (s.writeS q).prng.valid = s.prng.valid := rfl
@[simp] theorem writeS_seed (s : State) (q : Quad) : (s.writeS q).prng.seed = s.prng.seed := rfl
@[simp] theorem writeS_seedCnt (s : State) (q : Quad) : (s.writeS q).prng.seedCnt = s.prng.seedCnt := rfl
@[simp] theorem writeS_crc16 (s : State) (q : Quad) : (s.writeS q).crc16 = s.crc16 := rfl
@[simp] theorem writeS_crc32 (s : State) (q : Quad) : (s.writeS q).crc32 = s.crc32 := rfl
@[simp] theorem writeS_port (s : State) (q : Quad) : (s.writeS q).port = s.port := rfl

/-! ### The response appended -/

@[simp] theorem respond_prng (s : State) (r : Response) : (s.respond r).prng = s.prng := rfl
@[simp] theorem respond_crc16 (s : State) (r : Response) : (s.respond r).crc16 = s.crc16 := rfl
@[simp] theorem respond_crc32 (s : State) (r : Response) : (s.respond r).crc32 = s.crc32 := rfl
@[simp] theorem respond_inbox (s : State) (r : Response) : (s.respond r).port.inbox = s.port.inbox := rfl
@[simp] theorem respond_responses (s : State) (r : Response) :
    (s.respond r).port.responses = s.port.responses ++ [r] := rfl
@[simp] theorem respond_clock (s : State) (r : Response) : (s.respond r).port.clock = s.port.clock := rfl
@[simp] theorem respond_clockReads (s : State) (r : Response) :
    (s.respond r).port.clockReads = s.port.clockReads := rfl

/-! ### A CRC unit started, or its table built -/

@[simp] theorem start_table {width : Nat} (a : BitVec width) (u : CrcUnit width) : (u.start a).table = u.table := rfl
@[simp] theorem start_tvalid {width : Nat} (a : BitVec width) (u : CrcUnit width) : (u.start a).tvalid = u.tvalid := rfl
@[simp] theorem start_acc {width : Nat} (a : BitVec width) (u : CrcUnit width) : (u.start a).acc = a := rfl
@[simp] theorem start_active {width : Nat} (a : BitVec width) (u : CrcUnit width) : (u.start a).active = true := rfl

@[simp] theorem ensureBuilt_tvalid {width : Nat} (f : Byte → BitVec width) (u : CrcUnit width) :
    (u.ensureBuilt f).tvalid = true := by
  unfold CrcUnit.ensureBuilt; split <;> simp [*]

@[simp] theorem ensureBuilt_acc {width : Nat} (f : Byte → BitVec width) (u : CrcUnit width) :
    (u.ensureBuilt f).acc = u.acc := by
  unfold CrcUnit.ensureBuilt; split <;> rfl

@[simp] theorem ensureBuilt_active {width : Nat} (f : Byte → BitVec width) (u : CrcUnit width) :
    (u.ensureBuilt f).active = u.active := by
  unfold CrcUnit.ensureBuilt; split <;> rfl

/-- A table already built is not built again (70 R109). -/
theorem ensureBuilt_of_tvalid {width : Nat} (f : Byte → BitVec width) (u : CrcUnit width) (h : u.tvalid = true) :
    u.ensureBuilt f = u := by
  simp [CrcUnit.ensureBuilt, h]

/-- A table not built yet becomes the whole built table. -/
theorem ensureBuilt_table_of_not {width : Nat} (f : Byte → BitVec width) (u : CrcUnit width) (h : u.tvalid = false) :
    (u.ensureBuilt f).table = Table.build f := by
  simp [CrcUnit.ensureBuilt, h]

/-! ### The seed buffer -/

@[simp] theorem append_s (p : Prng) (w : Word) : (p.append w).s = p.s := by
  unfold Prng.append; split <;> rfl

@[simp] theorem append_valid (p : Prng) (w : Word) : (p.append w).valid = p.valid := by
  unfold Prng.append; split <;> rfl

/-- SEEDCNT after an append: one more, but never more than 4 (40_seed R58). -/
theorem append_seedCnt (p : Prng) (w : Word) : (p.append w).seedCnt.val = min (p.seedCnt.val + 1) 4 := by
  obtain ⟨q, v, d, n⟩ := p
  fin_cases n <;> rfl

/-- The seed sequence after an append: the word at its end, or unchanged when it already has four (40_seed R58). -/
theorem append_words (p : Prng) (w : Word) :
    (p.append w).words = if p.seedCnt.val < 4 then p.words ++ [w] else p.words := by
  obtain ⟨q, v, d, n⟩ := p
  fin_cases n <;> rfl

@[simp] theorem constructed_s (p : Prng) (d : ClockSample) : (p.constructed d).s = construct p.words d := rfl
@[simp] theorem constructed_valid (p : Prng) (d : ClockSample) : (p.constructed d).valid = true := rfl
@[simp] theorem constructed_seed (p : Prng) (d : ClockSample) : (p.constructed d).seed = p.seed := rfl
@[simp] theorem constructed_seedCnt (p : Prng) (d : ClockSample) : (p.constructed d).seedCnt = 0 := rfl

/-! ### The clock -/

@[simp] theorem clockUsed_prng (s : State) : s.clockUsed.prng = s.prng := by unfold State.clockUsed; split <;> rfl
@[simp] theorem clockUsed_crc16 (s : State) : s.clockUsed.crc16 = s.crc16 := by unfold State.clockUsed; split <;> rfl
@[simp] theorem clockUsed_crc32 (s : State) : s.clockUsed.crc32 = s.crc32 := by unfold State.clockUsed; split <;> rfl
@[simp] theorem clockUsed_inbox (s : State) : s.clockUsed.port.inbox = s.port.inbox := by
  unfold State.clockUsed; split <;> rfl
@[simp] theorem clockUsed_responses (s : State) : s.clockUsed.port.responses = s.port.responses := by
  unfold State.clockUsed; split <;> rfl

@[simp] theorem afterDraw_prng (s : State) : s.afterDraw.prng = s.prng := by unfold State.afterDraw; split <;> simp
@[simp] theorem afterDraw_crc16 (s : State) : s.afterDraw.crc16 = s.crc16 := by unfold State.afterDraw; split <;> simp
@[simp] theorem afterDraw_crc32 (s : State) : s.afterDraw.crc32 = s.crc32 := by unfold State.afterDraw; split <;> simp
@[simp] theorem afterDraw_inbox (s : State) : s.afterDraw.port.inbox = s.port.inbox := by
  unfold State.afterDraw; split <;> simp
@[simp] theorem afterDraw_responses (s : State) : s.afterDraw.port.responses = s.port.responses := by
  unfold State.afterDraw; split <;> simp

/-! ### What the shared operations answer -/

/-- All that `respond(OK, data)` does. -/
theorem respondOk_next {d : Data} {s t : State} (h : respondOk d s = .next t) : t = s.respond (okResponse d) := by
  cases h; rfl

/-- All that `raise` does (60_exceptions R91). -/
theorem raise_next {e : Error} {s t : State} (h : raise e s = .next t) : t = s.respond (errorResponse e) := by
  cases h; rfl

/-- All that a precondition does: the rest of the command under it, the error without it (60_exceptions R93). -/
theorem require_next {flag : Bool} {e : Error} {s t : State} {rest : Result} (h : require flag e s rest = .next t) :
    (flag = true ∧ rest = .next t) ∨ (flag = false ∧ t = s.respond (errorResponse e)) := by
  cases flag with
  | true => exact .inl ⟨rfl, h⟩
  | false => exact .inr ⟨rfl, raise_next h⟩

@[simp] theorem resetBlock_prng (s : State) : s.resetBlock.prng = Prng.reset := rfl
@[simp] theorem resetBlock_crc16 (s : State) : s.resetBlock.crc16 = CrcUnit.reset 16 := rfl
@[simp] theorem resetBlock_crc32 (s : State) : s.resetBlock.crc32 = CrcUnit.reset 32 := rfl
@[simp] theorem resetBlock_port (s : State) : s.resetBlock.port = s.port := rfl

end Sys2Proof.Laws
end

