-- ==== Sys2Proof/Laws/Memory.lean ====
section
/-! SUPPORT. The table memories: read after write, the canonical form, and the table build as its 256 writes. -/

namespace Sys2Proof.Laws

open Sys2Proof.Machine

variable {width : Nat}

theorem lookup_insert_same (k : Nat) (v : BitVec width) (t : Table width) :
    Table.lookup (Table.insert k v t) k = some v := by
  induction t with
  | nil => simp [Table.insert, Table.lookup]
  | cons e t ih =>
    obtain ⟨j, u⟩ := e
    unfold Table.insert
    split
    · simp [Table.lookup]
    · split
      · simp [Table.lookup]
      · rename_i hkj
        rw [Table.lookup, if_neg fun e => hkj e.symm, ih]

theorem lookup_insert_other {k i : Nat} (h : k ≠ i) (v : BitVec width) (t : Table width) :
    Table.lookup (Table.insert k v t) i = Table.lookup t i := by
  induction t with
  | nil => simp [Table.insert, Table.lookup, h]
  | cons e t ih =>
    obtain ⟨j, u⟩ := e
    unfold Table.insert
    split
    · simp [Table.lookup, h]
    · split
      · subst_vars
        simp [Table.lookup, h]
      · simp [Table.lookup, ih]

/-- A read after a write to the same entry gives the value written. -/
theorem read_write_same (free : Byte → BitVec width) (t : Table width) (i : Byte) (v : BitVec width) :
    Table.read free (t.write i v) i = v := by
  simp [Table.read, Table.write, lookup_insert_same]

/-- A write leaves every other entry alone. -/
theorem read_write_other (free : Byte → BitVec width) (t : Table width) {i j : Byte} (h : i ≠ j) (v : BitVec width) :
    Table.read free (t.write i v) j = Table.read free t j := by
  have : i.toNat ≠ j.toNat := fun e => h (BitVec.eq_of_toNat_eq e)
  simp [Table.read, Table.write, lookup_insert_other this]

theorem wfFrom_mono {lo hi : Nat} (hle : lo ≤ hi) {t : Table width} (h : Table.wfFrom hi t = true) :
    Table.wfFrom lo t = true := by
  cases t with
  | nil => rfl
  | cons e t =>
    obtain ⟨k, v⟩ := e
    simp only [Table.wfFrom, Bool.and_eq_true, decide_eq_true_eq] at h ⊢
    exact ⟨⟨by omega, h.1.2⟩, h.2⟩

theorem insert_wfFrom {lo k : Nat} (hlo : lo ≤ k) (hk : k < 256) (v : BitVec width) {t : Table width}
    (h : Table.wfFrom lo t = true) : Table.wfFrom lo (Table.insert k v t) = true := by
  induction t generalizing lo with
  | nil => simp [Table.insert, Table.wfFrom, hlo, hk]
  | cons e t ih =>
    obtain ⟨j, u⟩ := e
    simp only [Table.wfFrom, Bool.and_eq_true, decide_eq_true_eq] at h
    unfold Table.insert
    split
    · simp only [Table.wfFrom, Bool.and_eq_true, decide_eq_true_eq]
      exact ⟨⟨hlo, hk⟩, ⟨by omega, h.1.2⟩, h.2⟩
    · split
      · subst_vars
        simp only [Table.wfFrom, Bool.and_eq_true, decide_eq_true_eq]
        exact ⟨⟨hlo, hk⟩, h.2⟩
      · simp only [Table.wfFrom, Bool.and_eq_true, decide_eq_true_eq]
        exact ⟨h.1, ih (by omega) h.2⟩

/-- A write keeps the canonical form. -/
theorem write_wf (t : Table width) (i : Byte) (v : BitVec width) (h : t.wf = true) : (t.write i v).wf = true :=
  insert_wfFrom (Nat.zero_le _) i.isLt v h

/-! ### The built table -/

/-- The entries of the indexes `lo` to `lo + n - 1`, in order. -/
def entriesFrom (f : Byte → BitVec width) (lo n : Nat) : Table width :=
  (List.range' lo n).map fun k => (k, f (BitVec.ofNat 8 k))

theorem build_eq_entriesFrom (f : Byte → BitVec width) : Table.build f = entriesFrom f 0 256 := by
  simp [Table.build, entriesFrom, List.range_eq_range']

theorem entriesFrom_succ (f : Byte → BitVec width) (lo n : Nat) :
    entriesFrom f lo (n + 1) = (lo, f (BitVec.ofNat 8 lo)) :: entriesFrom f (lo + 1) n := by
  simp [entriesFrom, List.range'_succ]

theorem lookup_entriesFrom (f : Byte → BitVec width) (lo n i : Nat) :
    Table.lookup (entriesFrom f lo n) i = if lo ≤ i ∧ i < lo + n then some (f (BitVec.ofNat 8 i)) else none := by
  induction n generalizing lo with
  | zero => simp [entriesFrom, Table.lookup]
  | succ n ih =>
    rw [entriesFrom_succ]
    unfold Table.lookup
    by_cases h : lo = i
    · subst h; simp
    · rw [if_neg h, ih]
      congr 1
      simp only [eq_iff_iff]
      omega

theorem entriesFrom_wf (f : Byte → BitVec width) (lo n : Nat) (h : lo + n ≤ 256) :
    Table.wfFrom lo (entriesFrom f lo n) = true := by
  induction n generalizing lo with
  | zero => simp [entriesFrom, Table.wfFrom]
  | succ n ih =>
    rw [entriesFrom_succ]
    simp only [Table.wfFrom, Bool.and_eq_true, decide_eq_true_eq]
    exact ⟨⟨Nat.le_refl _, by omega⟩, ih (lo + 1) (by omega)⟩

/-- The built table is in canonical form. -/
theorem build_wf (f : Byte → BitVec width) : (Table.build f).wf = true := by
  rw [build_eq_entriesFrom]
  exact entriesFrom_wf f 0 256 (by omega)

/-- Every entry of the built table holds the function's value (20_memory R29, R30). -/
theorem lookup_build (f : Byte → BitVec width) (i : Byte) : Table.lookup (Table.build f) i.toNat = some (f i) := by
  have := i.isLt
  rw [build_eq_entriesFrom, lookup_entriesFrom, if_pos (by omega)]
  simp

/-- A read of a built table gives the function's value. -/
theorem read_build (free f : Byte → BitVec width) (i : Byte) : Table.read free (Table.build f) i = f i := by
  simp [Table.read, lookup_build]

/-- A read of a table all of whose entries are written gives what is there. -/
theorem read_of_built {free f : Byte → BitVec width} {u : CrcUnit width} (h : u.Built f) (i : Byte) :
    Table.read free u.table i = f i := by
  simp [Table.read, h i]

/-- The table build keeps the canonical form. -/
theorem ensureBuilt_wf (f : Byte → BitVec width) (u : CrcUnit width) (h : u.table.wf = true) :
    (u.ensureBuilt f).table.wf = true := by
  unfold CrcUnit.ensureBuilt
  split
  · exact h
  · exact build_wf f

/-- `for i = 0 to n - 1: MemWrite(T, i, f(i))`, the loop of 42_crc16 R75 and 43_crc32 R84. -/
def buildWrites (f : Byte → BitVec width) (n : Nat) (t : Table width) : Table width :=
  (List.range n).foldl (fun t k => t.write (BitVec.ofNat 8 k) (f (BitVec.ofNat 8 k))) t

theorem buildWrites_succ (f : Byte → BitVec width) (n : Nat) (t : Table width) :
    buildWrites f (n + 1) t = (buildWrites f n t).write (BitVec.ofNat 8 n) (f (BitVec.ofNat 8 n)) := by
  simp [buildWrites, List.range_succ]

theorem buildWrites_wf (f : Byte → BitVec width) (n : Nat) (t : Table width) (h : t.wf = true) :
    (buildWrites f n t).wf = true := by
  induction n with
  | zero => simpa [buildWrites] using h
  | succ n ih => rw [buildWrites_succ]; exact write_wf _ _ _ ih

theorem lookup_buildWrites (f : Byte → BitVec width) (n : Nat) (hn : n ≤ 256) (t : Table width) (i : Nat) (hi : i < n) :
    Table.lookup (buildWrites f n t) i = some (f (BitVec.ofNat 8 i)) := by
  induction n with
  | zero => omega
  | succ n ih =>
    have e : (BitVec.ofNat 8 n).toNat = n := by simp; omega
    rw [buildWrites_succ, Table.write, e]
    by_cases h : n = i
    · subst h; exact lookup_insert_same _ _ _
    · rw [lookup_insert_other h]; exact ih (by omega) (by omega)

theorem lookup_none_of_lt {lo i : Nat} (hi : i < lo) {t : Table width} (h : Table.wfFrom lo t = true) :
    Table.lookup t i = none := by
  induction t generalizing lo with
  | nil => rfl
  | cons e t ih =>
    obtain ⟨k, v⟩ := e
    simp only [Table.wfFrom, Bool.and_eq_true, decide_eq_true_eq] at h
    unfold Table.lookup
    rw [if_neg (by omega)]
    exact ih (lo := k + 1) (by omega) h.2

theorem lookup_none_of_ge {lo i : Nat} (hi : 256 ≤ i) {t : Table width} (h : Table.wfFrom lo t = true) :
    Table.lookup t i = none := by
  induction t generalizing lo with
  | nil => rfl
  | cons e t ih =>
    obtain ⟨k, v⟩ := e
    simp only [Table.wfFrom, Bool.and_eq_true, decide_eq_true_eq] at h
    unfold Table.lookup
    rw [if_neg (by omega)]
    exact ih (lo := k + 1) h.2

/-- Two tables in canonical form that hold the same entries are equal. -/
theorem eq_of_lookup_eq {lo : Nat} {t u : Table width} (ht : Table.wfFrom lo t = true) (hu : Table.wfFrom lo u = true)
    (h : ∀ i, Table.lookup t i = Table.lookup u i) : t = u := by
  induction t generalizing lo u with
  | nil =>
    cases u with
    | nil => rfl
    | cons e u =>
      obtain ⟨k, v⟩ := e
      have := h k
      simp [Table.lookup] at this
  | cons e t ih =>
    obtain ⟨j, a⟩ := e
    simp only [Table.wfFrom, Bool.and_eq_true, decide_eq_true_eq] at ht
    cases u with
    | nil => have := h j; simp [Table.lookup] at this
    | cons e u =>
      obtain ⟨k, b⟩ := e
      simp only [Table.wfFrom, Bool.and_eq_true, decide_eq_true_eq] at hu
      have hj : Table.lookup ((j, a) :: t) j = some a := by simp [Table.lookup]
      have hk : Table.lookup ((k, b) :: u) k = some b := by simp [Table.lookup]
      have hjk : j = k := by
        rcases Nat.lt_trichotomy j k with hlt | heq | hgt
        · rw [h j, Table.lookup, if_neg (by omega), lookup_none_of_lt (lo := k + 1) (by omega) hu.2] at hj
          cases hj
        · exact heq
        · rw [← h k, Table.lookup, if_neg (by omega), lookup_none_of_lt (lo := j + 1) (by omega) ht.2] at hk
          cases hk
      subst hjk
      have hab : a = b := by have := h j; simpa [Table.lookup] using this
      subst hab
      have : t = u := ih ht.2 hu.2 fun i => by
        by_cases e : j = i
        · subst e
          rw [lookup_none_of_lt (lo := j + 1) (by omega) ht.2, lookup_none_of_lt (lo := j + 1) (by omega) hu.2]
        · have := h i
          simpa [Table.lookup, e] using this
      rw [this]

/-- The 256 writes of the table build, on any table memory in canonical form, leave exactly the built table (20_memory R31, R34). -/
theorem writes_eq_build (f : Byte → BitVec width) (t : Table width) (h : t.wf = true) :
    buildWrites f 256 t = Table.build f := by
  have hw : Table.wfFrom 0 (buildWrites f 256 t) = true := buildWrites_wf f 256 t h
  have hb : Table.wfFrom 0 (Table.build f) = true := build_wf f
  refine eq_of_lookup_eq hw hb fun i => ?_
  by_cases hi : i < 256
  · rw [lookup_buildWrites f 256 (by omega) t i hi]
    have e : (BitVec.ofNat 8 i).toNat = i := by simp; omega
    have := lookup_build f (BitVec.ofNat 8 i)
    rw [e] at this
    exact this.symm
  · rw [lookup_none_of_ge (by omega) hw, lookup_none_of_ge (by omega) hb]

end Sys2Proof.Laws
end

