-- ==== Sys2Proof/Laws/PerInstr.lean ====
section
/-! SUPPORT. The family `LegalEncoding`: the encoding of every command is a legal word, one lemma per constructor of Instr
(30_encoding R46, R48). -/

namespace Sys2Proof.Laws

/-- The encoding of the command fits a row of the opcode map. -/
def LegalEncoding.Statement (i : Instr) : Prop := legalWord (encode i) = true

/-- A word that fits one row of the opcode map is legal. -/
theorem legalWord_of_fits (r : OpcodeRow) (hr : r ∈ opcodeRows) {cmd : CmdWord} (h : r.fits cmd = true) :
    legalWord cmd = true := List.any_eq_true.mpr ⟨r, hr, h⟩

/-- A packed word fits a row whose mask and pattern are packed fields that it agrees with. -/
theorem fits_of_fields {name : String} {op m p : Byte} {arg n q : Word} (hop : op &&& m = p) (harg : arg &&& n = q) :
    (OpcodeRow.mk name (pack m n) (pack p q)).fits (pack op arg) = true := by
  simp [OpcodeRow.fits, pack_and_pack, hop, harg]

/-- A zero-extended byte under the mask of the unused bits is zero. -/
theorem zext_byte_and_mask (b : Byte) : b.setWidth 32 &&& 0xFFFFFF00#32 = 0#32 := by
  have h : ∀ b : Byte, b.setWidth 32 &&& 0xFFFFFF00#32 = 0#32 := by decide
  exact h b

theorem LegalEncoding.seedw (w : Word) : LegalEncoding.Statement (.seedw w) :=
  legalWord_of_fits ⟨"SEEDW", pack 0xFF 0, pack 0x01 0⟩ (by decide) (fits_of_fields (by decide) (by simp))

theorem LegalEncoding.init : LegalEncoding.Statement .init := by
  unfold LegalEncoding.Statement; decide

theorem LegalEncoding.next32 : LegalEncoding.Statement .next32 := by
  unfold LegalEncoding.Statement; decide

theorem LegalEncoding.next64 : LegalEncoding.Statement .next64 := by
  unfold LegalEncoding.Statement; decide

theorem LegalEncoding.rstate : LegalEncoding.Statement .rstate := by
  unfold LegalEncoding.Statement; decide

theorem LegalEncoding.c16start : LegalEncoding.Statement .c16start := by
  unfold LegalEncoding.Statement; decide

theorem LegalEncoding.c16byte (b : Byte) : LegalEncoding.Statement (.c16byte b) :=
  legalWord_of_fits ⟨"C16BYTE", pack 0xFF 0xFFFFFF00, pack 0x11 0⟩ (by decide)
    (fits_of_fields (by decide) (zext_byte_and_mask b))

theorem LegalEncoding.c16result : LegalEncoding.Statement .c16result := by
  unfold LegalEncoding.Statement; decide

theorem LegalEncoding.c16rdt (i : Byte) : LegalEncoding.Statement (.c16rdt i) :=
  legalWord_of_fits ⟨"C16RDT", pack 0xFF 0xFFFFFF00, pack 0x13 0⟩ (by decide)
    (fits_of_fields (by decide) (zext_byte_and_mask i))

theorem LegalEncoding.c32start : LegalEncoding.Statement .c32start := by
  unfold LegalEncoding.Statement; decide

theorem LegalEncoding.c32byte (b : Byte) : LegalEncoding.Statement (.c32byte b) :=
  legalWord_of_fits ⟨"C32BYTE", pack 0xFF 0xFFFFFF00, pack 0x21 0⟩ (by decide)
    (fits_of_fields (by decide) (zext_byte_and_mask b))

theorem LegalEncoding.c32result : LegalEncoding.Statement .c32result := by
  unfold LegalEncoding.Statement; decide

theorem LegalEncoding.c32rdt (i : Byte) : LegalEncoding.Statement (.c32rdt i) :=
  legalWord_of_fits ⟨"C32RDT", pack 0xFF 0xFFFFFF00, pack 0x23 0⟩ (by decide)
    (fits_of_fields (by decide) (zext_byte_and_mask i))

end Sys2Proof.Laws
end

