-- ==== Sys2Proof/Laws/Step.lean ====
section
/-! SUPPORT. What a step can do, said once, and how a list of commands runs. -/

namespace Sys2Proof.Laws

open Sys2Proof.Machine

/-- All that the issue of a command word can do: the decoded command, or the E_ILLEGAL response. -/
theorem issue_next {word : CmdWord} {s t : State} (h : issue word s = .next t) :
    (∃ i, decode word = .ok i ∧ exec i s = .next t) ∨
      ((∃ e, decode word = .error e) ∧ t = s.respond (errorResponse .illegal)) := by
  unfold issue at h
  split at h
  · exact .inl ⟨_, ‹_›, h⟩
  · exact .inr ⟨⟨_, ‹_›⟩, raise_next h⟩

/-- All that a step can do: nothing, when no event is waiting; else a reset, or the issue of a word, on the state from whose port the
event has been taken. -/
theorem step_next {s t : State} (h : step s = .next t) :
    (s.port.inbox = [] ∧ t = s) ∨
    (∃ rest, s.port.inbox = .reset :: rest ∧ t = (s.setPort { s.port with inbox := rest }).resetBlock) ∨
    (∃ word rest, s.port.inbox = .command word :: rest ∧
      issue word (s.setPort { s.port with inbox := rest }) = .next t) := by
  unfold step State.nextEvent at h
  rcases hx : s.port.inbox with _ | ⟨e, rest⟩ <;> simp only [hx] at h
  · cases h; exact .inl ⟨rfl, rfl⟩
  · cases e with
    | command word => exact .inr (.inr ⟨word, rest, rfl, h⟩)
    | reset => cases h; exact .inr (.inl ⟨rest, rfl, rfl⟩)

/-- A list of commands runs its first one and then the others from there. -/
theorem execAll_cons {i : Instr} {is : List Instr} {s t : State} (h : exec i s = .next t) :
    execAll (i :: is) s = execAll is t := by
  simp [execAll, h]

/-- Two lists of commands, one after the other. -/
theorem execAll_append {is js : List Instr} {s t : State} (h : execAll is s = .next t) :
    execAll (is ++ js) s = execAll js t := by
  induction is generalizing s with
  | nil => cases h; rfl
  | cons i is ih =>
    simp only [List.cons_append, execAll] at h ⊢
    split at h
    · exact ih h
    · cases h
    · cases h

end Sys2Proof.Laws
end

