-- ==== Sys2Proof/Tests/Slice0.lean ====
section
/-! SUPPORT. Tests. Expected values are from 95_test_vectors (X1 to X9, V1 to V12, P1 to P5) and the worked examples of the family
files; the source is named at each group. The last part shows, for each statement with hypotheses, that they can be met. -/

namespace Sys2Proof.Tests

open Sys2Proof Sys2Proof.Machine

/-! ### A small state and two projections -/

/-- S = (1, 2, 3, 4), one seed word 200, both tables built, hashes in progress, one command waiting, one clock sample (V2). -/
def busy : State :=
  { prng := { s := ⟨1, 2, 3, 4⟩, valid := true, seed := ⟨200, 7, 9, 0⟩, seedCnt := 1 },
    crc16 := { table := Table.build tab16, tvalid := true, acc := 0xD4C1, active := true },
    crc32 := { table := Table.build tab32, tvalid := true, acc := 0xFFFFFFFF, active := true },
    port := { inbox := [.command 0x0300000000], responses := [], clock := [⟨0x12345678, true⟩], clockReads := 0 } }

/-- `busy` with another count of seed words. -/
def counted (n : Fin 5) : State := busy.setPrng { busy.prng with seedCnt := n }

/-- The next state, or the reset state where there is none. -/
def after : Result → State
  | .next t => t
  | .fault _ => State.reset
  | .refused _ => State.reset

/-- The last response given. -/
def answer (r : Result) : Option Response := (after r).port.responses.getLast?

/-! ### Legal and illegal words (30_encoding R48; V8): one ill-formed word for each check -/

theorem test_legal_seedw : legalWord 0x01FFFFFFFF = true := by decide
theorem test_legal_c16byte : legalWord 0x11000000FF = true := by decide
theorem test_illegal_shapeN_arg : legalWord 0x0200000001 = false := by decide
theorem test_illegal_shapeB_arg : legalWord 0x1100000100 = false := by decide
theorem test_illegal_shapeB_top_bit : legalWord 0x2180000000 = false := by decide
theorem test_illegal_op_unassigned : legalWord 0x0600000000 = false := by decide
theorem test_illegal_all_zero : legalWord 0x0000000000 = false := by decide
theorem test_illegal_all_ones : legalWord 0xFFFFFFFFFF = false := by decide
theorem test_illegal_unit_nibble : legalWord 0x3000000000 = false := by decide

/-! ### Decoding words written out from the opcode map (R46; V8), every constructor -/

theorem test_decode_seedw : decode 0x01000000C8#40 = .ok (.seedw 200) := by decide
theorem test_decode_seedw_all_ones : decode 0x01FFFFFFFF#40 = .ok (.seedw 0xFFFFFFFF) := by decide
theorem test_decode_init : decode 0x0200000000#40 = .ok .init := by decide
theorem test_decode_next32 : decode 0x0300000000#40 = .ok .next32 := by decide
theorem test_decode_next64 : decode 0x0400000000#40 = .ok .next64 := by decide
theorem test_decode_rstate : decode 0x0500000000#40 = .ok .rstate := by decide
theorem test_decode_c16start : decode 0x1000000000#40 = .ok .c16start := by decide
theorem test_decode_c16byte : decode 0x1100000031#40 = .ok (.c16byte 0x31) := by decide
theorem test_decode_c16result : decode 0x1200000000#40 = .ok .c16result := by decide
theorem test_decode_c16rdt : decode 0x1300000080#40 = .ok (.c16rdt 0x80) := by decide
theorem test_decode_c32start : decode 0x2000000000#40 = .ok .c32start := by decide
theorem test_decode_c32byte_zero : decode 0x2100000000#40 = .ok (.c32byte 0) := by decide
theorem test_decode_c32result : decode 0x2200000000#40 = .ok .c32result := by decide
theorem test_decode_c32rdt : decode 0x23000000FF#40 = .ok (.c32rdt 0xFF) := by decide
theorem test_decode_illegal_arg : decode 0x0380000000#40 = .error (.argNotZero 0x03) := by decide
theorem test_decode_illegal_byte : decode 0x1100000100#40 = .error (.argNotByte 0x11) := by decide
theorem test_decode_illegal_op : decode 0x1400000000#40 = .error (.unknownOp 0x14) := by decide
theorem test_encode_seedw : encode (.seedw 0xDEADBEEF) = 0x01DEADBEEF#40 := by decide
theorem test_encode_c32byte : encode (.c32byte 0xA9) = 0x21000000A9#40 := by decide
theorem test_table_word : decodeTableWord 40 0x1300000001 = some (.c16rdt 1) := by decide
theorem test_table_word_illegal : decodeTableWord 40 0x1400000000 = none := by decide

/-! ### Seed expansion (V1, V2, X1, X6) -/

theorem test_expand1_200 : expand1 200 = ⟨0x65E356E9, 0x1C8B718A, 0x358CA575, 0x473BE42D⟩ := by decide
theorem test_expand1_zero_is_fallback : expand1 0 = ⟨0x00000001, 0x6C078967, 0x714ACB41, 0x48077044⟩ := by decide
theorem test_expand1_top_bits : expand1 0xC0000000 = ⟨0x04169C30, 0x3BD14EF2, 0xDD71A77D, 0xECEB82BA⟩ := by decide
theorem test_construct_all_zero :
    construct [0, 0, 0] ⟨9, true⟩ = ⟨0x00000001, 0x6C078967, 0x714ACB41, 0x48077044⟩ := by decide
theorem test_construct_two_verbatim : construct [5, 0] ⟨9, true⟩ = ⟨5, 0, 0, 0⟩ := by decide
theorem test_construct_one_expanded :
    construct [5] ⟨9, true⟩ = ⟨0x1C25AEFA, 0x8657D2A4, 0xCAEAF181, 0x3C7DDA4E⟩ := by decide
theorem test_construct_clock :
    construct [] ⟨0x12345678, true⟩ = ⟨0x2E345559, 0x1DC14D1F, 0x5F62043E, 0xC7AA63DF⟩ := by decide
theorem test_construct_no_clock :
    construct [] ⟨0x12345678, false⟩ = ⟨0x00000001, 0x6C078967, 0x714ACB41, 0x48077044⟩ := by decide

/-! ### The generator (V3, V4) -/

theorem test_step32_all_ones :
    step32 ⟨0xFFFFFFFF, 0xFFFFFFFF, 0xFFFFFFFF, 0xFFFFFFFF⟩ =
      (⟨0xFFFFFFFF, 0xFFFFFFFF, 0xFFFFFFFF, 0xFFFFE7F8⟩, 0xFFFFE7F8) := by decide
theorem test_step32_after_200 :
    (step32 ⟨0x65E356E9, 0x1C8B718A, 0x358CA575, 0x473BE42D⟩).2 = 940615229 := by decide
theorem test_step64_all_ones :
    step64 ⟨0xFFFFFFFF, 0xFFFFFFFF, 0xFFFFFFFF, 0xFFFFFFFF⟩ =
      (⟨0xFFFFFFFF, 0xFFFFFFFF, 0xFFFFE7F8, 0xFFFFFFFF⟩, 0xFFFFE7F8FFFFFFFF) := by decide
theorem test_step64_known_vector :
    (step64 ⟨0x02EC0B1F, 0xD4EB8025, 0x60B52330, 0xF45C5C87⟩).2 = 10847489112624616892 := by decide

/-! ### The CRC engines (V5, V6, V7) -/

theorem test_tab16_01 : tab16 0x01 = 0xC0C1 := by decide
theorem test_tab16_FF : tab16 0xFF = 0x4040 := by decide
theorem test_tab32_01 : tab32 0x01 = 0x77073096 := by decide
theorem test_tab32_FF : tab32 0xFF = 0x2D02EF8D := by decide
theorem test_crc16_empty : crc16 [] = 0x0000 := by decide
theorem test_crc16_abc : crc16 [0x61, 0x62, 0x63] = 0x9738 := by decide +kernel
theorem test_fold16_trace : fold16 0xD4C1 0x32 = 0x4594 := by decide
theorem test_crc32_empty : crc32 [] = 0x00000000 := by decide
theorem test_crc32_abc : crc32 [0x61, 0x62, 0x63] = 0x352441C2 := by decide +kernel
theorem test_fold32_trace : fold32 0x7C231048 0x32 = 0xB0ACBB32 := by decide

/-! ### One command (the examples of 40_seed to 43_crc32; V9) -/

theorem test_seedw_appends : (after (exec (.seedw 5) busy)).prng.seed = ⟨200, 5, 9, 0⟩ := by decide
theorem test_seedw_fifth_ignored : (after (exec (.seedw 5) (counted 4))).prng = (counted 4).prng := by decide
theorem test_init_one_word :
    (after (exec .init busy)).prng.s = ⟨0x65E356E9, 0x1C8B718A, 0x358CA575, 0x473BE42D⟩ := by decide
theorem test_init_no_word :
    (after (exec .init (counted 0))).prng.s = ⟨0x2E345559, 0x1DC14D1F, 0x5F62043E, 0xC7AA63DF⟩ := by decide
theorem test_next32_output : answer (exec .next32 busy) = some ⟨.ok, 0x80D⟩ := by decide
theorem test_next32_uninit : answer (exec .next32 State.reset) = some ⟨.error .prngUninit, 0⟩ := by decide
theorem test_next64_output : answer (exec .next64 busy) = some ⟨.ok, 0x0000080D0000181F⟩ := by decide
theorem test_next64_state : (after (exec .next64 busy)).prng.s = ⟨3, 4, 0x80D, 0x181F⟩ := by decide
theorem test_rstate_order :
    answer (exec .rstate busy) = some ⟨.ok, 0x00000004000000030000000200000001⟩ := by decide
theorem test_rstate_uninit : answer (exec .rstate State.reset) = some ⟨.error .prngUninit, 0⟩ := by decide
theorem test_c16start_acc : (after (exec .c16start busy)).crc16.acc = 0 := by decide
theorem test_c16start_builds : readT16 (after (exec .c16start State.reset)) 0x31 = 0xD4C1 := by decide
theorem test_c16byte_second : (after (exec (.c16byte 0x32) busy)).crc16.acc = 0x4594 := by decide +kernel
theorem test_c16byte_idle : answer (exec (.c16byte 0x31) State.reset) = some ⟨.error .c16Idle, 0⟩ := by decide
theorem test_c16result : answer (exec .c16result busy) = some ⟨.ok, 0xD4C1⟩ := by decide
theorem test_c16result_idle : answer (exec .c16result State.reset) = some ⟨.error .c16Idle, 0⟩ := by decide
theorem test_c16rdt_first : answer (exec (.c16rdt 1) State.reset) = some ⟨.ok, 0xC0C1⟩ := by decide
theorem test_c16rdt_keeps_hash : (after (exec (.c16rdt 0x80) busy)).crc16.acc = 0xD4C1 := by decide
theorem test_c32start_acc : (after (exec .c32start State.reset)).crc32.acc = 0xFFFFFFFF := by decide
theorem test_c32byte_first : (after (exec (.c32byte 0x31) busy)).crc32.acc = 0x7C231048 := by decide
theorem test_c32byte_idle : answer (exec (.c32byte 0x31) State.reset) = some ⟨.error .c32Idle, 0⟩ := by decide
theorem test_c32result_empty : answer (exec .c32result busy) = some ⟨.ok, 0⟩ := by decide
theorem test_c32result_idle : answer (exec .c32result State.reset) = some ⟨.error .c32Idle, 0⟩ := by decide
theorem test_c32rdt_first : answer (exec (.c32rdt 0xFF) State.reset) = some ⟨.ok, 0x2D02EF8D⟩ := by decide +kernel

/-! ### One step (V9; R93, R103) -/

theorem test_step_first_command :
    answer (step (State.reset.withFetchWord 40 0x2300000001)) = some ⟨.ok, 0x77073096⟩ := by decide
theorem test_step_illegal_before_uninit :
    answer (step (State.reset.withFetchWord 40 0x0300000001)) = some ⟨.error .illegal, 0⟩ := by decide
theorem test_step_reset_event :
    (after (step (busy.setPort { busy.port with inbox := [.reset] }))).prng.valid = false := by decide
theorem test_step_reset_no_response :
    answer (step (busy.setPort { busy.port with inbox := [.reset] })) = none := by decide

/-! ### The assembler and the macros (R40, R50, R51) -/

theorem test_assemble_seedw : assembleLine "SEEDW 0xC8 ; seed".toList = some [.seedw 200] := by decide
theorem test_assemble_char : assembleLine "C16BYTE 'a'".toList = some [.c16byte 0x61] := by decide
theorem test_assemble_too_big : assembleLine "C16BYTE 256".toList = none := by decide
theorem test_assemble_mkgen : assembleLine "MKGEN 7, 9".toList = some [.seedw 7, .seedw 9, .init] := by decide
theorem test_listing : listing (.seedw 200) "SEEDW 200".toList = "01000000C8  SEEDW 200".toList := by decide
theorem test_text_bytes : textBytes "é" = [0xC3, 0xA9] := by decide

/-! ### The hypotheses of the statements can be met -/

theorem busy_coherent16 : busy.crc16.Coherent tab16 := ⟨fun _ i => Laws.lookup_build tab16 i, fun _ => rfl⟩

theorem busy_coherent32 : busy.crc32.Coherent tab32 := ⟨fun _ i => Laws.lookup_build tab32 i, fun _ => rfl⟩

/-- For StepKeepsTheInvariants, EagerBuildingChangesOnlyTheCache and TheTableCacheCannotBeObserved. -/
theorem busy_inv : busy.Inv := ⟨fun _ h => by revert h; decide, busy_coherent16, busy_coherent32⟩

/-- `busy` with the CRC16 table forgotten and no hash in progress, and the same with the table kept: they differ in the cache only. -/
def uncached : State := busy.setCrc16 { busy.crc16 with table := [], tvalid := false, active := false }

/-- As `uncached`, with the table kept. -/
def cached : State := busy.setCrc16 { busy.crc16 with active := false }

theorem witness_seedw_room : (counted 3).prng.seedCnt.val < 4 := by decide
theorem witness_seedw_full : (counted 4).prng.seedCnt.val = 4 := by decide
theorem witness_prng_valid : busy.prng.valid = true := by decide
theorem witness_prng_invalid : State.reset.prng.valid = false := by decide
theorem witness_c16_active : busy.crc16.active = true ∧ busy.crc16.Coherent tab16 := ⟨rfl, busy_coherent16⟩
theorem witness_c16_idle : State.reset.crc16.active = false := by decide
theorem witness_c16_not_built : State.reset.crc16.tvalid = false := by decide
theorem witness_c16_built : busy.crc16.tvalid = true := by decide
theorem witness_c32_active : busy.crc32.active = true ∧ busy.crc32.Coherent tab32 := ⟨rfl, busy_coherent32⟩
theorem witness_c32_idle : State.reset.crc32.active = false := by decide
theorem witness_c32_not_built : State.reset.crc32.tvalid = false := by decide
theorem witness_c32_built : busy.crc32.tvalid = true := by decide

/-- For OnlyTheMarkedCommandsWriteAnElement and NoCommandChangesAnotherUnit: a command of each unit, each outside some of the sets. -/
theorem witness_frames :
    (∃ t, exec (.seedw 5) busy = .next t) ∧ (∃ t, exec .c16result busy = .next t) ∧
      (∃ t, exec (.c32byte 1) busy = .next t) := ⟨⟨_, rfl⟩, ⟨_, rfl⟩, ⟨_, rfl⟩⟩

/-- For NoCommandReadsAnotherUnit: states that differ outside the command's unit. -/
theorem witness_other_unit :
    SamePrngSide busy uncached ∧ SameCrc16Side busy (counted 3) ∧ SameCrc32Side busy uncached ∧
      Instr.next32.unit = .prng ∧ Instr.c16start.unit = .crc16 ∧ Instr.c32start.unit = .crc32 :=
  ⟨⟨rfl, rfl⟩, ⟨rfl, rfl⟩, ⟨rfl, rfl⟩, rfl, rfl, rfl⟩

/-- For ABuiltTableIsNeverWritten. -/
theorem witness_built_table : busy.crc16.tvalid = true ∧ busy.crc32.tvalid = true ∧
    ∃ t, exec (.c16rdt 1) busy = .next t := ⟨rfl, rfl, _, rfl⟩

/-- For OnlyAnUnseededInitSamplesTheClock: a seeded INIT, and a command that is no INIT. -/
theorem witness_no_sampling :
    ¬ (Instr.init = .init ∧ busy.prng.seedCnt.val = 0) ∧ (∃ t, exec .init busy = .next t) ∧
      ¬ (Instr.next32 = .init ∧ (counted 0).prng.seedCnt.val = 0) :=
  ⟨by decide, ⟨_, rfl⟩, by decide⟩

/-- For ASeededInitIgnoresTheClock. -/
theorem witness_seeded : busy.prng.seedCnt.val ≠ 0 := by decide

/-- For AnUnseededInitUsesOneClockDraw: a sample listed, and none. -/
theorem witness_unseeded :
    (counted 0).prng.seedCnt.val = 0 ∧ (counted 0).port.clock = [⟨0x12345678, true⟩] ∧
      State.reset.prng.seedCnt.val = 0 ∧ State.reset.port.clock = [] := ⟨rfl, rfl, rfl, rfl⟩

/-- For SeedWordsStayUntilInit. -/
theorem witness_seed_words_stay : (∃ t, exec (.seedw 5) (counted 4) = .next t) ∧ Instr.seedw 5 ≠ .init :=
  ⟨⟨_, rfl⟩, by decide⟩

/-- For NoCommandClearsAFlag. -/
theorem witness_flags : ∃ t, exec .c16start State.reset = .next t := ⟨_, rfl⟩

/-- For OkExactlyWhenReady: ready, and not. -/
theorem witness_answers :
    (∃ t, Answers .next32 busy (okResponse 0x80D) t) ∧
      (∃ t, Answers .next32 State.reset (errorResponse .prngUninit) t) ∧ ¬ Ready .next32 State.reset :=
  ⟨⟨after (exec .next32 busy), rfl, by decide⟩, ⟨_, rfl, rfl⟩, by simp [Ready, State.reset, Prng.reset]⟩

/-- For AnErrorRepeatsUntilItsCauseIsRemoved, with witness_errors: commands between that leave the cause of E_C16_IDLE (R94). -/
theorem witness_between :
    Instr.c16start ∉ [Instr.c16rdt 1, .init, .c32start, .c16byte 0x31] ∧
      answer (execAll [.c16rdt 1, .init, .c32start, .c16byte 0x31] State.reset) = some ⟨.error .c16Idle, 0⟩ := by decide

/-- For AnErrorChangesNothing and AnErrorRepeatsUntilItsCauseIsRemoved: an illegal word, and a command of a unit not ready. -/
theorem witness_errors :
    (∃ t, issue 0x0200000001 busy = .next t ∧ Responds busy t (errorResponse .illegal)) ∧
      (∃ t, issue 0x1200000000 State.reset = .next t ∧ Responds State.reset t (errorResponse .c16Idle)) :=
  ⟨⟨_, rfl, rfl⟩, ⟨_, rfl, rfl⟩⟩

/-- For AnIllegalWordIsAnsweredEIllegal: the words next to a legal one at each edge. -/
theorem witness_illegal_words :
    legalWord 0x0200000001 = false ∧ legalWord 0x1100000100 = false ∧ legalWord 0x2400000000 = false := by decide

/-- For EncodeInvertsDecode and DecodeAcceptsExactlyTheRows. -/
theorem witness_decoded : decode 0x13000000FF#40 = .ok (.c16rdt 0xFF) := by decide

/-- For StepRunsTheDecodedCommand. -/
theorem witness_step_command : busy.port.inbox = .command 0x0300000000 :: [] ∧ decode 0x0300000000#40 = .ok .next32 :=
  ⟨rfl, by decide⟩

/-- For WithNoEventTheStateIsHeld, SteppingRunsTheCommandsInOrder and ResetEventGivesTheResetState. -/
theorem witness_inboxes :
    State.reset.port.inbox = [] ∧ (busy.setPort { busy.port with inbox := [.reset] }).port.inbox = .reset :: [] :=
  ⟨rfl, rfl⟩

/-- For StepKeepsTheInvariants: a state that is not the reset state, and its step. -/
theorem witness_invariants : busy.Inv ∧ ∃ t, step busy = .next t := ⟨busy_inv, _, rfl⟩

/-- For StepKeepsTheTablesCanonical. -/
theorem witness_canonical : busy.TablesWf ∧ ∃ t, step busy = .next t :=
  ⟨⟨Laws.build_wf tab16, Laws.build_wf tab32⟩, _, rfl⟩

/-- For MkgenUsesTheFirstFourWords: more than four words. -/
theorem witness_mkgen : [1, 2, 3, 4, 5, 6] ≠ ([] : List Word) ∧ State.reset.prng.seedCnt.val = 0 := by decide

/-- For Crc16StreamIsTheFold and Crc32StreamIsTheFold: commands of other units in between. -/
theorem witness_streams :
    Instr.c16start ∉ [Instr.c16byte 0x32, .c32start, .c16result, .c16byte 0x33] ∧
      Instr.c32start ∉ [Instr.c32byte 0x32, .c16start, .c32rdt 1] := by decide

/-- For Hash16AnswersCrc16 and Hash32AnswersCrc32. -/
theorem witness_hash : busy.crc16.Coherent tab16 ∧ busy.crc32.Coherent tab32 := ⟨busy_coherent16, busy_coherent32⟩

theorem uncached_inv : uncached.Inv :=
  ⟨busy_inv.1, ⟨fun h => absurd h (by decide), fun h => absurd h (by decide)⟩, busy_coherent32⟩

theorem cached_inv : cached.Inv :=
  ⟨busy_inv.1, ⟨fun _ i => Laws.lookup_build tab16 i, fun _ => rfl⟩, busy_coherent32⟩

/-- For TheTableCacheCannotBeObserved: one table built and one not. -/
theorem witness_cache : uncached.Inv ∧ cached.Inv ∧ SameButCache uncached cached ∧ uncached.crc16.tvalid ≠ cached.crc16.tvalid :=
  ⟨uncached_inv, cached_inv, ⟨rfl, ⟨rfl, rfl⟩, ⟨rfl, rfl⟩, rfl⟩, by decide⟩

/-- For BlocksShareNothing: two blocks. -/
theorem witness_blocks : ([State.reset, busy] : System)[1]? = some busy := rfl

end Sys2Proof.Tests
end

section
/-! SUPPORT. What a step is for each host event, that every command and every step completes, and that each unit is on its own:
a command commutes with replacing the units it does not belong to (00_scope R2, R7). -/

namespace Sys2Proof.Proofs

open Sys2Proof.Machine Sys2Proof.Laws

/-! ### A step, by the next host event -/

/-- A word that decodes is issued as its command (30_encoding R47). -/
theorem issue_of_decode_ok {word : CmdWord} {i : Instr} (h : decode word = .ok i) (s : State) :
    issue word s = exec i s := by
  simp [issue, h]

/-- A word that does not decode is answered E_ILLEGAL (30_encoding R48). -/
theorem issue_of_decode_error {word : CmdWord} {e : Illegal} (h : decode word = .error e) (s : State) :
    issue word s = raise .illegal s := by
  simp [issue, h]

theorem step_of_inbox_nil {s : State} (h : s.port.inbox = []) : step s = .next s := by
  simp [step, State.nextEvent, h]

theorem step_of_inbox_cons {s : State} {e : HostEvent} {rest : List HostEvent} (h : s.port.inbox = e :: rest) :
    step s = takeEvent e (s.setPort { s.port with inbox := rest }) := by
  simp [step, State.nextEvent, h]

/-- Settles O33: the step issues the word, and the word is issued as the command it decodes to. -/
theorem stepRunsTheDecodedCommand : Obligations.StepRunsTheDecodedCommand := by
  intro s word rest i hinbox hdecode
  calc step s = takeEvent (.command word) (s.setPort { s.port with inbox := rest }) := step_of_inbox_cons hinbox
    _ = issue word (s.setPort { s.port with inbox := rest }) := rfl
    _ = exec i (s.setPort { s.port with inbox := rest }) := issue_of_decode_ok hdecode _

/-! ### Completion -/

/-- A precondition completes when the rest of the command does: without the flag it is the error response that is given. -/
theorem require_completes (flag : Bool) (e : Error) (s : State) {rest : Result} (h : ∃ t, rest = .next t) :
    ∃ t, require flag e s rest = .next t := by
  cases flag with
  | true => exact h
  | false => exact ⟨_, rfl⟩

/-- Every command completes, in every state (00_scope R7). -/
theorem exec_completes (i : Instr) (s : State) : ∃ t, exec i s = .next t := by
  cases i with
  | seedw | init | c16start | c16rdt | c32start | c32rdt => exact ⟨_, rfl⟩
  | next32 | next64 | rstate | c16byte | c16result | c32byte | c32result => exact require_completes _ _ _ ⟨_, rfl⟩

/-- The issue of any word completes, whether or not the word is a command. -/
theorem issue_completes (word : CmdWord) (s : State) : ∃ t, issue word s = .next t := by
  cases h : decode word with
  | ok i => rw [issue_of_decode_ok h]; exact exec_completes i s
  | error => rw [issue_of_decode_error h]; exact ⟨_, rfl⟩

theorem takeEvent_completes (e : HostEvent) (s : State) : ∃ t, takeEvent e s = .next t := by
  cases e with
  | command word => exact issue_completes word s
  | reset => exact ⟨_, rfl⟩

/-- Settles O37: with no event the state is held, and every event completes. -/
theorem everyStepCompletes : Obligations.EveryStepCompletes := by
  intro s
  cases h : s.port.inbox with
  | nil => exact ⟨s, step_of_inbox_nil h⟩
  | cons e rest => rw [step_of_inbox_cons h]; exact takeEvent_completes e _

/-! ### Replacing the units a command does not belong to -/

/-- The state with its unit `k` and its port kept, and the two other units those of `o`. -/
def othersFrom (k : BlockUnit) (o s : State) : State :=
  match k with
  | .prng => (s.setCrc16 o.crc16).setCrc32 o.crc32
  | .crc16 => (s.setPrng o.prng).setCrc32 o.crc32
  | .crc32 => (s.setPrng o.prng).setCrc16 o.crc16

theorem othersFrom_self (k : BlockUnit) (s : State) : othersFrom k s s = s := by
  cases k <;> rfl

theorem othersFrom_prng {k : BlockUnit} (h : k ≠ .prng) (o s : State) : (othersFrom k o s).prng = o.prng := by
  cases k with
  | prng => exact absurd rfl h
  | crc16 | crc32 => rfl

theorem othersFrom_crc16 {k : BlockUnit} (h : k ≠ .crc16) (o s : State) : (othersFrom k o s).crc16 = o.crc16 := by
  cases k with
  | crc16 => exact absurd rfl h
  | prng | crc32 => rfl

theorem othersFrom_crc32 {k : BlockUnit} (h : k ≠ .crc32) (o s : State) : (othersFrom k o s).crc32 = o.crc32 := by
  cases k with
  | crc32 => exact absurd rfl h
  | prng | crc16 => rfl

theorem respond_othersFrom (k : BlockUnit) (o s : State) (r : Response) :
    (othersFrom k o s).respond r = othersFrom k o (s.respond r) := by
  cases k <;> rfl

/-- INIT's draw is on the port and needs SEEDCNT only. -/
theorem afterDraw_othersFrom (o s : State) : (othersFrom .prng o s).afterDraw = othersFrom .prng o s.afterDraw := by
  have hused : (othersFrom .prng o s).clockUsed = othersFrom .prng o s.clockUsed := by
    obtain ⟨p, u, v, inbox, responses, clock, reads⟩ := s
    cases clock <;> rfl
  have hunit : (othersFrom .prng o s).prng = s.prng := rfl
  by_cases h : s.prng.seedCnt = 0 <;> simp [State.afterDraw, hunit, h, hused]

/-- `respond(OK, data)` commutes with replacing the other units. -/
theorem respondOk_othersFrom (k : BlockUnit) (o : State) {d : Data} {s t : State} (h : respondOk d s = .next t) :
    respondOk d (othersFrom k o s) = .next (othersFrom k o t) := by
  rw [respondOk_next h, ← respond_othersFrom]; rfl

/-- A precondition commutes with replacing the other units when the rest of the command does. -/
theorem require_othersFrom (k : BlockUnit) (o : State) {flag : Bool} {e : Error} {s t : State} {rest rest' : Result}
    (h : require flag e s rest = .next t) (hrest : rest = .next t → rest' = .next (othersFrom k o t)) :
    require flag e (othersFrom k o s) rest' = .next (othersFrom k o t) := by
  obtain ⟨rfl, hnext⟩ | ⟨rfl, rfl⟩ := require_next h
  · exact hrest hnext
  · rw [← respond_othersFrom]; rfl

/-- The one fact behind 00_scope R2: a command from a state with other units in place of those it does not belong to does the same,
and those units stay as they were put. -/
theorem exec_othersFrom (o : State) {i : Instr} {s t : State} (h : exec i s = .next t) :
    exec i (othersFrom i.unit o s) = .next (othersFrom i.unit o t) := by
  cases i with
  | init =>
    show respondOk 0 ((othersFrom .prng o s).afterDraw.setPrng _) = _
    rw [afterDraw_othersFrom]
    exact respondOk_othersFrom .prng o h
  | seedw => exact respondOk_othersFrom .prng o h
  | c16start | c16rdt => exact respondOk_othersFrom .crc16 o h
  | c32start | c32rdt => exact respondOk_othersFrom .crc32 o h
  | next32 | next64 | rstate => exact require_othersFrom .prng o h (respondOk_othersFrom .prng o)
  | c16byte | c16result => exact require_othersFrom .crc16 o h (respondOk_othersFrom .crc16 o)
  | c32byte | c32result => exact require_othersFrom .crc32 o h (respondOk_othersFrom .crc32 o)

/-- What a command leaves unchanged: the units it does not belong to are those of the state before. -/
theorem exec_keeps_others {i : Instr} {s t : State} (h : exec i s = .next t) : t = othersFrom i.unit s t := by
  have hself := exec_othersFrom s h
  rw [othersFrom_self, h] at hself
  exact Host.Outcome.next.inj hself

theorem readT16_congr {s t : State} (h : t.crc16 = s.crc16) (k : Byte) : readT16 t k = readT16 s k := by
  simp only [readT16, h]

theorem readT32_congr {s t : State} (h : t.crc32 = s.crc32) (k : Byte) : readT32 t k = readT32 s k := by
  simp only [readT32, h]

/-- Settles O15: the state after a command has its other units from the state before, by `exec_keeps_others`. -/
theorem noCommandChangesAnotherUnit : Obligations.NoCommandChangesAnotherUnit := by
  intro i s t h
  have hkeep := exec_keeps_others h
  have h16 (hu : i.unit ≠ .crc16) : t.crc16 = s.crc16 := by rw [hkeep, othersFrom_crc16 hu]
  have h32 (hu : i.unit ≠ .crc32) : t.crc32 = s.crc32 := by rw [hkeep, othersFrom_crc32 hu]
  refine ⟨fun hu => ?_, fun hu => ⟨h16 hu, readT16_congr (h16 hu)⟩, fun hu => ⟨h32 hu, readT32_congr (h32 hu)⟩⟩
  rw [hkeep, othersFrom_prng hu]

theorem eq_othersFrom_of_samePrngSide {s s' : State} (h : SamePrngSide s s') : s' = othersFrom .prng s' s := by
  cases s; cases s'; obtain ⟨rfl, rfl⟩ := h; rfl

theorem eq_othersFrom_of_sameCrc16Side {s s' : State} (h : SameCrc16Side s s') : s' = othersFrom .crc16 s' s := by
  cases s; cases s'; obtain ⟨rfl, rfl⟩ := h; rfl

theorem eq_othersFrom_of_sameCrc32Side {s s' : State} (h : SameCrc32Side s s') : s' = othersFrom .crc32 s' s := by
  cases s; cases s'; obtain ⟨rfl, rfl⟩ := h; rfl

/-- From two states that differ only in the units a command does not belong to, it completes and the next states differ only there. -/
theorem exec_pair {i : Instr} {k : BlockUnit} {s s' : State} (hu : i.unit = k) (h : s' = othersFrom k s' s) :
    ∃ t, exec i s = .next t ∧ exec i s' = .next (othersFrom k s' t) := by
  subst hu
  obtain ⟨t, ht⟩ := exec_completes i s
  refine ⟨t, ht, ?_⟩
  rw [← exec_othersFrom s' ht, ← h]

/-- Settles O16: states that agree in the command's unit and in the port differ by a replacement of the other units, which the
command commutes with. -/
theorem noCommandReadsAnotherUnit : Obligations.NoCommandReadsAnotherUnit := by
  intro i s s'
  refine ⟨fun hu hsame => ?_, fun hu hsame => ?_, fun hu hsame => ?_⟩
  · obtain ⟨t, ht, ht'⟩ := exec_pair hu (eq_othersFrom_of_samePrngSide hsame)
    exact ⟨t, _, ht, ht', rfl, rfl⟩
  · obtain ⟨t, ht, ht'⟩ := exec_pair hu (eq_othersFrom_of_sameCrc16Side hsame)
    exact ⟨t, _, ht, ht', rfl, rfl⟩
  · obtain ⟨t, ht, ht'⟩ := exec_pair hu (eq_othersFrom_of_sameCrc32Side hsame)
    exact ⟨t, _, ht, ht', rfl, rfl⟩

end Sys2Proof.Proofs
end

section
/-! SUPPORT. The bitwise part of the generator's invariant: neither construction nor a step gives the all-zero state (10_state R26
item 1; 40_seed R61; 41_prng R70). -/

namespace Sys2Proof.Proofs

open Sys2Proof.Machine Sys2Proof.Laws

/-! ### A word mixed with its own shift -/

/-- Only zero equals its own left shift: bit `i` would be bit `i - k`, and that one bit `i - 2k`, down to nothing. -/
theorem eq_zero_of_eq_shiftLeft {width k : Nat} (hk : 0 < k) {x : BitVec width} (h : x = x <<< k) : x = 0#width := by
  have hbit (i : Nat) : x.getLsbD i = false := by
    induction i using Nat.strong_induction_on with
    | _ i ih =>
      rw [h, BitVec.getLsbD_shiftLeft]
      by_cases hik : i < k
      · simp [hik]
      · simp [ih (i - k) (by omega)]
  exact BitVec.eq_of_getLsbD_eq fun i _ => by simp [hbit i]

/-- Only zero equals its own right shift: any other number is larger than its quotient. -/
theorem eq_zero_of_eq_ushiftRight {width k : Nat} (hk : 0 < k) {x : BitVec width} (h : x = x >>> k) : x = 0#width := by
  have hdiv : x.toNat = x.toNat / 2 ^ k := by
    conv_lhs => rw [h, BitVec.toNat_ushiftRight, Nat.shiftRight_eq_div_pow]
  by_contra hx
  have hpos : 0 < x.toNat := Nat.pos_of_ne_zero fun e => hx (BitVec.eq_of_toNat_eq (by simpa using e))
  have hlt : x.toNat / 2 ^ k < x.toNat := Nat.div_lt_self hpos (Nat.one_lt_two_pow hk.ne')
  omega

theorem mixLeft_eq_zero {x : Word} (h : mixLeft x = 0) : x = 0 :=
  eq_zero_of_eq_shiftLeft (k := 11) (by omega) (BitVec.xor_eq_zero_iff.mp h)

/-! ### The three ways S is written -/

theorem nonZero_iff (q : Quad) : q.NonZero ↔ ¬ (q.w0 = 0 ∧ q.w1 = 0 ∧ q.w2 = 0 ∧ q.w3 = 0) := by
  simp [Quad.NonZero, BitVec.or_eq_zero_iff, and_assoc]

/-- The new word is zero over three zero words only if the fourth was zero too (41_prng R70). -/
theorem step32_nonZero {q : Quad} (h : q.NonZero) : (step32 q).1.NonZero := by
  obtain ⟨w0, w1, w2, w3⟩ := q
  rw [nonZero_iff] at h ⊢
  rintro ⟨h1 : w1 = 0, h2 : w2 = 0, h3 : w3 = 0, hr⟩
  have hmix : mixLeft w0 ^^^ (mixLeft w0 >>> 8) = 0 := by simpa [step32, h3] using hr
  have h0 : w0 = 0 := mixLeft_eq_zero (eq_zero_of_eq_ushiftRight (by omega) (BitVec.xor_eq_zero_iff.mp hmix))
  exact h ⟨h0, h1, h2, h3⟩

/-- The wide step leaves the state of two steps: the word it leaves out of the last shift is shifted out (41_prng R68). -/
theorem step64_state (q : Quad) : (step64 q).1 = (step32 (step32 q).1).1 := by
  obtain ⟨w0, w1, w2, w3⟩ := q
  have hout : w3 >>> 19 >>> 19 = 0#32 := by
    rw [← BitVec.shiftRight_add]
    exact BitVec.ushiftRight_eq_zero (by omega)
  simp [step64, step32, BitVec.ushiftRight_xor_distrib, hout]

theorem step64_nonZero {q : Quad} (h : q.NonZero) : (step64 q).1.NonZero := by
  rw [step64_state]
  exact step32_nonZero (step32_nonZero h)

/-- If the first word of the expansion is zero, the second is 2 (40_seed R61). -/
theorem expand1_nonZero (seed : Word) : (expand1 seed).NonZero := by
  rw [nonZero_iff]
  rintro ⟨h0 : scramble seed 1 = 0, h1 : scramble (scramble seed 1) 2 = 0, -⟩
  rw [h0] at h1
  exact absurd h1 (by decide)

theorem seed4_nonZero (w0 w1 w2 w3 : Word) : (seed4 w0 w1 w2 w3).NonZero := by
  unfold seed4
  split
  · unfold Quad.NonZero; decide
  · assumption

/-- Construction never gives the all-zero state (40_seed R61). -/
theorem construct_nonZero (ws : List Word) (d : ClockSample) : (construct ws d).NonZero := by
  unfold construct
  split
  · exact expand1_nonZero _
  · exact expand1_nonZero _
  · exact seed4_nonZero _ _ _ _
  · exact seed4_nonZero _ _ _ _
  · exact seed4_nonZero _ _ _ _

end Sys2Proof.Proofs
end

section
/-! SUPPORT. What every command does to each unit, said once as a function of the unit (10_state R21), with what that function
leaves unchanged and what it keeps. The two CRC units share one function. -/

namespace Sys2Proof.Proofs

open Sys2Proof.Machine Sys2Proof.Laws

/-! ### The PRNG unit -/

/-- The unit with S advanced to `q`, which only a constructed generator does (41_prng R63). -/
def advanceTo (q : Quad) (p : Prng) : Prng := if p.valid then { p with s := q } else p

theorem advanceTo_of_valid (q : Quad) {p : Prng} (h : p.valid = true) : advanceTo q p = { p with s := q } := if_pos h

theorem advanceTo_of_not_valid (q : Quad) {p : Prng} (h : p.valid = false) : advanceTo q p = p := by
  simp [advanceTo, h]

@[simp] theorem advanceTo_valid (q : Quad) (p : Prng) : (advanceTo q p).valid = p.valid := by
  unfold advanceTo; split <;> rfl
@[simp] theorem advanceTo_seed (q : Quad) (p : Prng) : (advanceTo q p).seed = p.seed := by
  unfold advanceTo; split <;> rfl
@[simp] theorem advanceTo_seedCnt (q : Quad) (p : Prng) : (advanceTo q p).seedCnt = p.seedCnt := by
  unfold advanceTo; split <;> rfl

theorem advanceTo_nonDegenerate {q : Quad} {p : Prng} (hp : p.NonDegenerate) (hq : p.s.NonZero → q.NonZero) :
    (advanceTo q p).NonDegenerate := by
  unfold advanceTo
  split
  · exact fun hv => hq (hp hv)
  · exact hp

/-- The PRNG unit after a command, `d` being the clock's sample. -/
def prngAfter (i : Instr) (d : ClockSample) (p : Prng) : Prng :=
  match i with
  | .seedw w => p.append w
  | .init => p.constructed d
  | .next32 => advanceTo (step32 p.s).1 p
  | .next64 => advanceTo (step64 p.s).1 p
  | .rstate | .c16start | .c16byte _ | .c16result | .c16rdt _ | .c32start | .c32byte _ | .c32result | .c32rdt _ => p

theorem exec_prng {i : Instr} {s t : State} (h : exec i s = .next t) : t.prng = prngAfter i s.clockNow s.prng := by
  cases i with
  | seedw | init => cases h; rfl
  | next32 | next64 =>
    obtain ⟨hvalid, hnext⟩ | ⟨hvalid, rfl⟩ := require_next h
    · cases hnext; exact (advanceTo_of_valid _ hvalid).symm
    · exact (advanceTo_of_not_valid _ hvalid).symm
  | rstate =>
    obtain ⟨-, hnext⟩ | ⟨-, rfl⟩ := require_next h
    · cases hnext; rfl
    · rfl
  | _ => exact (noCommandChangesAnotherUnit _ s t h).1 (by simp [Instr.unit])

section
variable {i : Instr} (d : ClockSample) (p : Prng)

theorem prngAfter_s (h : i ≠ .init ∧ i ≠ .next32 ∧ i ≠ .next64) : (prngAfter i d p).s = p.s := by
  cases i with
  | seedw w => exact append_s p w
  | init | next32 | next64 => simp at h
  | _ => rfl

theorem prngAfter_seed (h : ∀ w, i ≠ .seedw w) : (prngAfter i d p).seed = p.seed := by
  cases i with
  | seedw w => exact absurd rfl (h w)
  | next32 | next64 => exact advanceTo_seed _ p
  | _ => rfl

theorem prngAfter_seedCnt (h : (∀ w, i ≠ .seedw w) ∧ i ≠ .init) : (prngAfter i d p).seedCnt = p.seedCnt := by
  cases i with
  | seedw w => exact absurd rfl (h.1 w)
  | init => exact absurd rfl h.2
  | next32 | next64 => exact advanceTo_seedCnt _ p
  | _ => rfl

theorem prngAfter_valid_iff : (prngAfter i d p).valid = true ↔ p.valid = true ∨ i = .init := by
  cases i with
  | _ => simp [prngAfter]

/-- No command leaves a constructed state all-zero (10_state R26 item 1). -/
theorem prngAfter_nonDegenerate (hp : p.NonDegenerate) : (prngAfter i d p).NonDegenerate := by
  cases i with
  | seedw w => simpa [prngAfter, Prng.NonDegenerate] using hp
  | init => exact fun _ => construct_nonZero _ d
  | next32 => exact advanceTo_nonDegenerate hp step32_nonZero
  | next64 => exact advanceTo_nonDegenerate hp step64_nonZero
  | _ => exact hp

end

/-! ### A CRC unit -/

/-- What a command is to a CRC unit; `none` is any command that does not write it. -/
inductive CrcOp where
  | start
  | byte (b : Byte)
  | readEntry (k : Byte)
  | none

/-- What a command is to the CRC16 unit. -/
def crcOp16 : Instr → CrcOp
  | .c16start => .start
  | .c16byte b => .byte b
  | .c16rdt k => .readEntry k
  | _ => .none

/-- What a command is to the CRC32 unit. -/
def crcOp32 : Instr → CrcOp
  | .c32start => .start
  | .c32byte b => .byte b
  | .c32rdt k => .readEntry k
  | _ => .none

@[simp] theorem crcOp16_eq_start (i : Instr) : crcOp16 i = .start ↔ i = .c16start := by
  cases i <;> simp [crcOp16]
@[simp] theorem crcOp16_eq_byte (i : Instr) (b : Byte) : crcOp16 i = .byte b ↔ i = .c16byte b := by
  cases i <;> simp [crcOp16]
@[simp] theorem crcOp16_eq_readEntry (i : Instr) (k : Byte) : crcOp16 i = .readEntry k ↔ i = .c16rdt k := by
  cases i <;> simp [crcOp16]
@[simp] theorem crcOp32_eq_start (i : Instr) : crcOp32 i = .start ↔ i = .c32start := by
  cases i <;> simp [crcOp32]
@[simp] theorem crcOp32_eq_byte (i : Instr) (b : Byte) : crcOp32 i = .byte b ↔ i = .c32byte b := by
  cases i <;> simp [crcOp32]
@[simp] theorem crcOp32_eq_readEntry (i : Instr) (k : Byte) : crcOp32 i = .readEntry k ↔ i = .c32rdt k := by
  cases i <;> simp [crcOp32]

section
variable {width : Nat} (free f : Byte → BitVec width) (initial : BitVec width)

/-- A CRC unit after a command: `f` is its table function, `initial` its first accumulator, and `free` what an unwritten entry
reads as. -/
def crcAfter (op : CrcOp) (u : CrcUnit width) : CrcUnit width :=
  match op with
  | .start => (u.ensureBuilt f).start initial
  | .byte b => if u.active then { u with acc := crcFold (Table.read free u.table) u.acc b } else u
  | .readEntry _ => u.ensureBuilt f
  | .none => u

variable {op : CrcOp} {u : CrcUnit width}

theorem crcAfter_byte_of_active (b : Byte) (h : u.active = true) :
    crcAfter free f initial (.byte b) u = { u with acc := crcFold (Table.read free u.table) u.acc b } := if_pos h

theorem crcAfter_byte_of_idle (b : Byte) (h : u.active = false) : crcAfter free f initial (.byte b) u = u := by
  simp [crcAfter, h]

theorem crcAfter_tvalid_iff :
    (crcAfter free f initial op u).tvalid = true ↔ u.tvalid = true ∨ op = .start ∨ ∃ k, op = .readEntry k := by
  cases op with
  | byte => simp only [crcAfter]; split <;> simp
  | _ => simp [crcAfter]

theorem crcAfter_active_iff : (crcAfter free f initial op u).active = true ↔ u.active = true ∨ op = .start := by
  cases op with
  | byte => simp only [crcAfter]; split <;> simp [*]
  | _ => simp [crcAfter]

theorem crcAfter_acc (h : op ≠ .start ∧ ∀ b, op ≠ .byte b) : (crcAfter free f initial op u).acc = u.acc := by
  cases op with
  | start => exact absurd rfl h.1
  | byte b => exact absurd rfl (h.2 b)
  | readEntry => exact ensureBuilt_acc f u
  | none => rfl

/-- The table is written only by the build, and only while it is not valid (70 R109). -/
theorem crcAfter_table (h : u.tvalid = true ∨ op ≠ .start ∧ ∀ k, op ≠ .readEntry k) :
    (crcAfter free f initial op u).table = u.table := by
  cases op with
  | start | readEntry =>
    have hvalid : u.tvalid = true := by simpa using h
    simp [crcAfter, ensureBuilt_of_tvalid f u hvalid]
  | byte => simp only [crcAfter]; split <;> rfl
  | none => rfl

/-! ### What a CRC unit keeps (10_state R26 items 3 and 4) -/

variable {f}

theorem ensureBuilt_built (h : u.Coherent f) : (u.ensureBuilt f).Built f := by
  cases hvalid : u.tvalid with
  | true => rw [ensureBuilt_of_tvalid f u hvalid]; exact h.1 hvalid
  | false => intro i; rw [ensureBuilt_table_of_not f u hvalid]; exact lookup_build f i

theorem ensureBuilt_coherent (h : u.Coherent f) : (u.ensureBuilt f).Coherent f :=
  ⟨fun _ => ensureBuilt_built h, fun _ => ensureBuilt_tvalid f u⟩

theorem crcAfter_coherent (h : u.Coherent f) : (crcAfter free f initial op u).Coherent f := by
  cases op with
  | start => exact ⟨fun _ => ensureBuilt_built h, fun _ => ensureBuilt_tvalid f u⟩
  | byte => simp only [crcAfter]; split <;> exact h
  | readEntry => exact ensureBuilt_coherent h
  | none => exact h

/-- A hash in progress reads the table function through the table memory (10_state R26). -/
theorem read_of_active (h : u.Coherent f) (hactive : u.active = true) : Table.read free u.table = f :=
  funext (read_of_built (h.1 (h.2 hactive)))

end

theorem exec_crc16 {i : Instr} {s t : State} (h : exec i s = .next t) :
    t.crc16 = crcAfter Config.unwrittenT16 tab16 init16 (crcOp16 i) s.crc16 := by
  cases i with
  | c16start | c16rdt => cases h; rfl
  | c16byte =>
    obtain ⟨hactive, hnext⟩ | ⟨hactive, rfl⟩ := require_next h
    · cases hnext; exact (crcAfter_byte_of_active _ _ _ _ hactive).symm
    · exact (crcAfter_byte_of_idle _ _ _ _ hactive).symm
  | c16result =>
    obtain ⟨-, hnext⟩ | ⟨-, rfl⟩ := require_next h
    · cases hnext; rfl
    · rfl
  | _ => exact ((noCommandChangesAnotherUnit _ s t h).2.1 (by simp [Instr.unit])).1

theorem exec_crc32 {i : Instr} {s t : State} (h : exec i s = .next t) :
    t.crc32 = crcAfter Config.unwrittenT32 tab32 init32 (crcOp32 i) s.crc32 := by
  cases i with
  | c32start | c32rdt => cases h; rfl
  | c32byte =>
    obtain ⟨hactive, hnext⟩ | ⟨hactive, rfl⟩ := require_next h
    · cases hnext; exact (crcAfter_byte_of_active _ _ _ _ hactive).symm
    · exact (crcAfter_byte_of_idle _ _ _ _ hactive).symm
  | c32result =>
    obtain ⟨-, hnext⟩ | ⟨-, rfl⟩ := require_next h
    · cases hnext; rfl
    · rfl
  | _ => exact ((noCommandChangesAnotherUnit _ s t h).2.2 (by simp [Instr.unit])).1

end Sys2Proof.Proofs
end

section
/-! SUPPORT. The statements about the state (10_state): the invariants, the flags, the frames and the table cache. -/

namespace Sys2Proof.Proofs

open Sys2Proof.Machine Sys2Proof.Laws

/-! ### The invariants of R26 -/

/-- Every command keeps the invariants, unit by unit. -/
theorem exec_keeps_inv {i : Instr} {s t : State} (hs : s.Inv) (h : exec i s = .next t) : t.Inv := by
  obtain ⟨hprng, h16, h32⟩ := hs
  refine ⟨?_, ?_, ?_⟩
  · rw [exec_prng h]; exact prngAfter_nonDegenerate _ _ hprng
  · rw [exec_crc16 h]; exact crcAfter_coherent _ _ h16
  · rw [exec_crc32 h]; exact crcAfter_coherent _ _ h32

/-- A block just reset meets the invariants, since no flag is set. -/
theorem resetBlock_inv (s : State) : s.resetBlock.Inv :=
  ⟨nofun, ⟨nofun, nofun⟩, ⟨nofun, nofun⟩⟩

/-- Settles O39: a step holds the state, resets the block, performs a command or answers E_ILLEGAL; the port, which an event is
taken from and a response given to, is no part of the invariants. -/
theorem stepKeepsTheInvariants : Obligations.StepKeepsTheInvariants := by
  intro s t hs h
  obtain ⟨-, rfl⟩ | ⟨rest, -, rfl⟩ | ⟨word, rest, -, hissue⟩ := step_next h
  · exact hs
  · exact resetBlock_inv _
  · have htaken : (s.setPort { s.port with inbox := rest }).Inv := hs
    obtain ⟨i, -, hexec⟩ | ⟨-, rfl⟩ := issue_next hissue
    · exact exec_keeps_inv htaken hexec
    · exact htaken

/-- Settles O41: no flag is set and no table entry is listed. -/
theorem resetMeetsTheInvariants : Obligations.ResetMeetsTheInvariants :=
  ⟨resetBlock_inv State.reset, rfl, rfl⟩

/-- Settles O36: the six fields are literals of the reset state. -/
theorem resetClearsTheFlags : Obligations.ResetClearsTheFlags :=
  ⟨rfl, rfl, rfl, rfl, rfl, rfl⟩

/-! ### Flags and frames -/

/-- Settles O22: one fact for each flag, from what a command does to the flag's unit. -/
theorem noCommandClearsAFlag : Obligations.NoCommandClearsAFlag := by
  intro i s t h
  rw [exec_prng h, exec_crc16 h, exec_crc32 h]
  simp only [prngAfter_valid_iff, crcAfter_tvalid_iff, crcAfter_active_iff, crcOp16_eq_start, crcOp16_eq_readEntry,
    crcOp32_eq_start, crcOp32_eq_readEntry, true_and]

theorem readT16_of_table_eq {s t : State} (h : t.crc16.table = s.crc16.table) (k : Byte) : readT16 t k = readT16 s k := by
  simp only [readT16, h]

theorem readT32_of_table_eq {s t : State} (h : t.crc32.table = s.crc32.table) (k : Byte) : readT32 t k = readT32 s k := by
  simp only [readT32, h]

/-- T16 is written only by a C16START or C16RDT that finds it not built. -/
theorem exec_table16 {i : Instr} {s t : State} (h : exec i s = .next t)
    (hi : s.crc16.tvalid = true ∨ i ≠ .c16start ∧ ∀ k, i ≠ .c16rdt k) : t.crc16.table = s.crc16.table := by
  rw [exec_crc16 h]
  exact crcAfter_table _ _ _ (by simpa using hi)

/-- T32 is written only by a C32START or C32RDT that finds it not built. -/
theorem exec_table32 {i : Instr} {s t : State} (h : exec i s = .next t)
    (hi : s.crc32.tvalid = true ∨ i ≠ .c32start ∧ ∀ k, i ≠ .c32rdt k) : t.crc32.table = s.crc32.table := by
  rw [exec_crc32 h]
  exact crcAfter_table _ _ _ (by simpa using hi)

/-- Settles O17: the flag stays, and the table of a valid unit is the one before. -/
theorem aBuiltTableIsNeverWritten : Obligations.ABuiltTableIsNeverWritten := by
  intro i s t h
  obtain ⟨-, h16, -, h32, -⟩ := noCommandClearsAFlag i s t h
  exact ⟨fun hv => ⟨h16.mpr (.inl hv), readT16_of_table_eq (exec_table16 h (.inl hv))⟩,
    fun hv => ⟨h32.mpr (.inl hv), readT32_of_table_eq (exec_table32 h (.inl hv))⟩⟩

/-- Settles O14: a flag that no command clears is unchanged by those that do not set it; the other elements by the frame of their
unit. -/
theorem onlyTheMarkedCommandsWriteAnElement : Obligations.OnlyTheMarkedCommandsWriteAnElement := by
  intro i s t h
  obtain ⟨hvalid, htvalid16, hactive16, htvalid32, hactive32⟩ := noCommandClearsAFlag i s t h
  refine ⟨fun hi => ?_, fun hi => ?_, fun hi => ?_, fun hi => ?_, fun hi => ⟨?_, ?_⟩, fun hi => ?_, fun hi => ?_,
    fun hi => ⟨?_, ?_⟩, fun hi => ?_, fun hi => ?_⟩
  · rw [exec_prng h]; exact prngAfter_s _ _ hi
  · exact Bool.eq_iff_iff.mpr (by simpa [hi] using hvalid)
  · rw [exec_prng h]; exact prngAfter_seed _ _ hi
  · rw [exec_prng h]; exact prngAfter_seedCnt _ _ hi
  · exact Bool.eq_iff_iff.mpr (by simpa [hi] using htvalid16)
  · exact readT16_of_table_eq (exec_table16 h (.inr hi))
  · rw [exec_crc16 h]; exact crcAfter_acc _ _ _ (by simpa using hi)
  · exact Bool.eq_iff_iff.mpr (by simpa [hi] using hactive16)
  · exact Bool.eq_iff_iff.mpr (by simpa [hi] using htvalid32)
  · exact readT32_of_table_eq (exec_table32 h (.inr hi))
  · rw [exec_crc32 h]; exact crcAfter_acc _ _ _ (by simpa using hi)
  · exact Bool.eq_iff_iff.mpr (by simpa [hi] using hactive32)

/-! ### The table cache (R25) -/

/-- Settles O52: an eager build is what C16RDT and C32RDT do to the units, and a build changes neither accumulator nor ACTIVE. -/
theorem eagerBuildingChangesOnlyTheCache : Obligations.EagerBuildingChangesOnlyTheCache := by
  rintro s ⟨hprng, h16, h32⟩
  have he16 : s.eager.crc16 = s.crc16.ensureBuilt tab16 := rfl
  have he32 : s.eager.crc32 = s.crc32.ensureBuilt tab32 := rfl
  refine ⟨⟨hprng, ensureBuilt_coherent h16, ensureBuilt_coherent h32⟩, ⟨rfl, ?_, ?_, rfl⟩, ?_, ?_⟩
  · simp [CrcUnit.SameButCache, he16]
  · simp [CrcUnit.SameButCache, he32]
  · simp [he16]
  · simp [he32]

/-- Both answers are next states, and these agree but for what has been cached. -/
def AgreeButCache (r r' : Result) : Prop :=
  ∃ t t', r = .next t ∧ r' = .next t' ∧ SameButCache t t'

/-- The same response is given in both states. -/
theorem respondOk_agree {d d' : Data} {s s' : State} (hd : d = d') (h : SameButCache s s') :
    AgreeButCache (respondOk d s) (respondOk d' s') := by
  obtain ⟨hprng, h16, h32, hport⟩ := h
  subst hd
  exact ⟨_, _, rfl, rfl, hprng, h16, h32, by simp [State.respond, hport]⟩

/-- A precondition on a flag that is no part of the cache: both states give the error, or both perform the rest. -/
theorem require_agree {flag flag' : Bool} {e : Error} {s s' : State} {rest rest' : Result} (hflag : flag = flag')
    (h : SameButCache s s') (hrest : flag = true → AgreeButCache rest rest') :
    AgreeButCache (require flag e s rest) (require flag' e s' rest') := by
  subst hflag
  cases flag with
  | true => exact hrest rfl
  | false =>
    obtain ⟨hprng, h16, h32, hport⟩ := h
    exact ⟨_, _, rfl, rfl, hprng, h16, h32, by simp [State.respond, hport]⟩

/-- A PRNG command reads no table and no built flag, since these are another unit's (00_scope R2). -/
theorem exec_agree_of_prng {i : Instr} {s s' : State} (hi : i.unit = .prng) (h : SameButCache s s') :
    AgreeButCache (exec i s) (exec i s') := by
  obtain ⟨hprng, h16, h32, hport⟩ := h
  obtain ⟨t, t', ht, ht', hprng', hport'⟩ := (noCommandReadsAnotherUnit i s s').1 hi ⟨hprng, hport⟩
  obtain ⟨-, hkeep16, hkeep32⟩ := noCommandChangesAnotherUnit i s t ht
  obtain ⟨-, hkeep16', hkeep32'⟩ := noCommandChangesAnotherUnit i s' t' ht'
  refine ⟨t, t', ht, ht', hprng', ?_, ?_, hport'⟩
  · rwa [(hkeep16 (by simp [hi])).1, (hkeep16' (by simp [hi])).1]
  · rwa [(hkeep32 (by simp [hi])).1, (hkeep32' (by simp [hi])).1]

theorem ensureBuilt_sameButCache {width : Nat} (f : Byte → BitVec width) {u v : CrcUnit width} (h : u.SameButCache v) :
    (u.ensureBuilt f).SameButCache (v.ensureBuilt f) := by
  simpa [CrcUnit.SameButCache] using h

/-- One byte folded into equal accumulators, each through its own table memory: a hash in progress finds the table function there. -/
theorem crcFold_read_eq {width : Nat} (free : Byte → BitVec width) {f : Byte → BitVec width} {u v : CrcUnit width}
    (hu : u.Coherent f) (hv : v.Coherent f) (h : u.SameButCache v) (hactive : u.active = true) (b : Byte) :
    crcFold (Table.read free u.table) u.acc b = crcFold (Table.read free v.table) v.acc b := by
  obtain ⟨hacc, hact⟩ := h
  rw [read_of_active free hu hactive, read_of_active free hv (hact ▸ hactive), hacc]

/-- An entry read right after the build is the table function's, whether the build found the table valid or not. -/
theorem read_ensureBuilt {width : Nat} (free : Byte → BitVec width) {f : Byte → BitVec width} {u : CrcUnit width}
    (h : u.Coherent f) (k : Byte) : Table.read free (u.ensureBuilt f).table k = f k :=
  read_of_built (ensureBuilt_built h) k

/-- One command, from two states that meet the invariants and agree but for the cache. -/
theorem exec_agree (i : Instr) {s s' : State} (hs : s.Inv) (hs' : s'.Inv) (h : SameButCache s s') :
    AgreeButCache (exec i s) (exec i s') := by
  have hsame := h
  obtain ⟨-, hu16, hu32⟩ := hs
  obtain ⟨-, hv16, hv32⟩ := hs'
  obtain ⟨hprng, h16, h32, hport⟩ := h
  cases i with
  | seedw | init | next32 | next64 | rstate => exact exec_agree_of_prng rfl hsame
  | c16start => exact respondOk_agree rfl ⟨hprng, ⟨rfl, rfl⟩, h32, hport⟩
  | c16byte b =>
    exact require_agree h16.2 hsame fun hactive =>
      respondOk_agree rfl ⟨hprng, ⟨crcFold_read_eq _ hu16 hv16 h16 hactive b, h16.2⟩, h32, hport⟩
  | c16result => exact require_agree h16.2 hsame fun _ => respondOk_agree (congrArg resultData h16.1) hsame
  | c16rdt k =>
    exact respondOk_agree (congrArg resultData ((read_ensureBuilt _ hu16 k).trans (read_ensureBuilt _ hv16 k).symm))
      ⟨hprng, ensureBuilt_sameButCache tab16 h16, h32, hport⟩
  | c32start => exact respondOk_agree rfl ⟨hprng, h16, ⟨rfl, rfl⟩, hport⟩
  | c32byte b =>
    exact require_agree h32.2 hsame fun hactive =>
      respondOk_agree rfl ⟨hprng, h16, ⟨crcFold_read_eq _ hu32 hv32 h32 hactive b, h32.2⟩, hport⟩
  | c32result => exact require_agree h32.2 hsame fun _ => respondOk_agree (by rw [h32.1]) hsame
  | c32rdt k =>
    exact respondOk_agree (congrArg resultData ((read_ensureBuilt _ hu32 k).trans (read_ensureBuilt _ hv32 k).symm))
      ⟨hprng, h16, ensureBuilt_sameButCache tab32 h32, hport⟩

/-- Settles O51, by induction on the list: the next states meet the invariants and agree again. -/
theorem theTableCacheCannotBeObserved : Obligations.TheTableCacheCannotBeObserved := by
  intro is
  induction is with
  | nil => exact fun s s' _ _ h => ⟨s, s', rfl, rfl, h⟩
  | cons i is ih =>
    intro s s' hs hs' h
    obtain ⟨t, t', ht, ht', hagree⟩ := exec_agree i hs hs' h
    rw [execAll_cons ht, execAll_cons ht']
    exact ih t t' (exec_keeps_inv hs ht) (exec_keeps_inv hs' ht') hagree

end Sys2Proof.Proofs
end

section
/-! SUPPORT. The statements about memory and order (20_memory): the canonical form of the table memories and their build, commands
completed in the order of issue, and a system of blocks that share nothing. -/

namespace Sys2Proof.Proofs

open Sys2Proof.Machine Sys2Proof.Laws

/-! ### The table memories (20_memory R29 to R35) -/

/-- A CRC unit's table is written by the build alone, which keeps the canonical form. -/
theorem crcAfter_table_wf {width : Nat} (free f : Byte → BitVec width) (initial : BitVec width) (op : CrcOp)
    {u : CrcUnit width} (h : u.table.wf = true) : (crcAfter free f initial op u).table.wf = true := by
  cases op with
  | start | readEntry => exact ensureBuilt_wf f u h
  | byte | none => rwa [crcAfter_table _ _ _ (.inr (by simp))]

/-- Every command keeps both table memories in canonical form. -/
theorem exec_keeps_tablesWf {i : Instr} {s t : State} (hs : s.TablesWf) (h : exec i s = .next t) : t.TablesWf := by
  obtain ⟨h16, h32⟩ := hs
  refine ⟨?_, ?_⟩
  · rw [exec_crc16 h]; exact crcAfter_table_wf _ _ _ _ h16
  · rw [exec_crc32 h]; exact crcAfter_table_wf _ _ _ _ h32

/-- A block just reset has canonical tables, since these list no entry. -/
theorem resetBlock_tablesWf (s : State) : s.resetBlock.TablesWf := ⟨rfl, rfl⟩

/-- Settles O40: a step holds the state, resets the block, performs a command or answers E_ILLEGAL; the port holds no table. -/
theorem stepKeepsTheTablesCanonical : Obligations.StepKeepsTheTablesCanonical := by
  intro s t hs h
  obtain ⟨-, rfl⟩ | ⟨rest, -, rfl⟩ | ⟨word, rest, -, hissue⟩ := step_next h
  · exact hs
  · exact resetBlock_tablesWf _
  · have htaken : (s.setPort { s.port with inbox := rest }).TablesWf := hs
    obtain ⟨i, -, hexec⟩ | ⟨-, rfl⟩ := issue_next hissue
    · exact exec_keeps_tablesWf htaken hexec
    · exact htaken

/-- A read after the build of a table not built before gives the table function's value, whatever the memory held. -/
theorem read_ensureBuilt_of_not {width : Nat} (free f : Byte → BitVec width) {u : CrcUnit width} (h : u.tvalid = false)
    (i : Byte) : Table.read free (u.ensureBuilt f).table i = f i := by
  rw [ensureBuilt_table_of_not f u h, read_build]

/-- Settles O54: T16 and T32 are built by the same operation of their unit. -/
theorem theBuiltTableHoldsEveryEntry : Obligations.TheBuiltTableHoldsEveryEntry :=
  fun _ i h16 h32 => ⟨read_ensureBuilt_of_not _ tab16 h16 i, read_ensureBuilt_of_not _ tab32 h32 i⟩

/-! ### A word encoded is the command decoded (30_encoding R47) -/

theorem shapeB_zext (op b : Byte) (f : Byte → Instr) : shapeB op (b.setWidth 32) f = .ok (f b) := by
  simp only [shapeB, zext_byte_high, zext_byte_low]; rfl

theorem decode_pack (op : Byte) (arg : Word) : decode (pack op arg) = decodeFields op arg := by
  simp [decode]

/-- The decoder finds the opcode's case, and in it the operand: the whole `arg`, none, or a zero-extended byte (R45). -/
theorem decode_encode (i : Instr) : decode (encode i) = .ok i := by
  cases i with
  | seedw w => exact decode_pack _ w
  | init | next32 | next64 | rstate | c16start | c16result | c32start | c32result => exact decode_pack _ 0
  | c16byte b | c16rdt b | c32byte b | c32rdt b => exact (decode_pack _ _).trans (shapeB_zext _ b _)

/-! ### Every command gives one response (30_encoding R44) -/

/-- A precondition gives one response when the rest of the command does, for an error is a response too. -/
theorem require_responds {flag : Bool} {e : Error} {s t : State} {rest : Result} (h : require flag e s rest = .next t)
    (hrest : rest = .next t → ∃ r, Responds s t r) : ∃ r, Responds s t r := by
  obtain ⟨-, hnext⟩ | ⟨-, rfl⟩ := require_next h
  · exact hrest hnext
  · exact ⟨_, rfl⟩

theorem exec_responds {i : Instr} {s t : State} (h : exec i s = .next t) : ∃ r, Responds s t r := by
  cases i with
  | seedw | c16start | c16rdt | c32start | c32rdt => cases h; exact ⟨_, rfl⟩
  | init => cases h; exact ⟨okResponse 0, by simp [Responds, okResponse]⟩
  | next32 | next64 | rstate | c16byte | c16result | c32byte | c32result =>
    exact require_responds h fun hnext => ⟨_, by cases hnext; rfl⟩

/-! ### The events waiting are no part of a command -/

/-- The state with other host events waiting. -/
def withInbox (es : List HostEvent) (s : State) : State := s.setPort { s.port with inbox := es }

theorem withInbox_self {es : List HostEvent} {s : State} (h : s.port.inbox = es) : withInbox es s = s := by
  subst h; rfl

/-- INIT's draw is on the clock's part of the port. -/
theorem afterDraw_withInbox (es : List HostEvent) (s : State) :
    (withInbox es s).afterDraw = withInbox es s.afterDraw := by
  have hused : (withInbox es s).clockUsed = withInbox es s.clockUsed := by
    obtain ⟨p, u, v, inbox, responses, clock, reads⟩ := s
    cases clock <;> rfl
  have hunit : (withInbox es s).prng = s.prng := rfl
  by_cases h : s.prng.seedCnt = 0 <;> simp [State.afterDraw, hunit, h, hused]

theorem respondOk_withInbox (es : List HostEvent) {d : Data} {s t : State} (h : respondOk d s = .next t) :
    respondOk d (withInbox es s) = .next (withInbox es t) := by
  rw [respondOk_next h]; rfl

theorem require_withInbox (es : List HostEvent) {flag : Bool} {e : Error} {s t : State} {rest rest' : Result}
    (h : require flag e s rest = .next t) (hrest : rest = .next t → rest' = .next (withInbox es t)) :
    require flag e (withInbox es s) rest' = .next (withInbox es t) := by
  obtain ⟨rfl, hnext⟩ | ⟨rfl, rfl⟩ := require_next h
  · exact hrest hnext
  · rfl

/-- A command does the same whatever the host has waiting, and leaves it waiting. -/
theorem exec_withInbox (es : List HostEvent) {i : Instr} {s t : State} (h : exec i s = .next t) :
    exec i (withInbox es s) = .next (withInbox es t) := by
  cases i with
  | init =>
    show respondOk 0 ((withInbox es s).afterDraw.setPrng _) = _
    rw [afterDraw_withInbox]
    exact respondOk_withInbox es h
  | seedw | c16start | c16rdt | c32start | c32rdt => exact respondOk_withInbox es h
  | next32 | next64 | rstate | c16byte | c16result | c32byte | c32result =>
    exact require_withInbox es h (respondOk_withInbox es)

theorem exec_inbox {i : Instr} {s t : State} (h : exec i s = .next t) : t.port.inbox = s.port.inbox := by
  have hself := exec_withInbox s.port.inbox h
  rw [withInbox_self rfl, h] at hself
  exact congrArg (·.port.inbox) (Host.Outcome.next.inj hself)

/-! ### A list of commands, in order (20_memory R37; 70 R113) -/

theorem execAll_completes (is : List Instr) (s : State) : ∃ t, execAll is s = .next t := by
  induction is generalizing s with
  | nil => exact ⟨s, rfl⟩
  | cons i is ih =>
    obtain ⟨u, hu⟩ := exec_completes i s
    rw [execAll_cons hu]
    exact ih u

/-- A list that has run has run its first command, and the others from there. -/
theorem execAll_cons_next {i : Instr} {is : List Instr} {s t : State} (h : execAll (i :: is) s = .next t) :
    ∃ u, exec i s = .next u ∧ execAll is u = .next t := by
  obtain ⟨u, hu⟩ := exec_completes i s
  exact ⟨u, hu, execAll_cons hu ▸ h⟩

theorem execAll_inbox {is : List Instr} {s t : State} (h : execAll is s = .next t) : t.port.inbox = s.port.inbox := by
  induction is generalizing s with
  | nil => cases h; rfl
  | cons i is ih =>
    obtain ⟨u, hu, ht⟩ := execAll_cons_next h
    rw [ih ht, exec_inbox hu]

/-- One response for each command. -/
theorem execAll_responses_length {is : List Instr} {s t : State} (h : execAll is s = .next t) :
    t.port.responses.length = s.port.responses.length + is.length := by
  induction is generalizing s with
  | nil => cases h; rfl
  | cons i is ih =>
    obtain ⟨u, hu, ht⟩ := execAll_cons_next h
    obtain ⟨r, hr⟩ := exec_responds hu
    have hlen : u.port.responses.length = s.port.responses.length + 1 := by rw [hr]; simp
    rw [ih ht, hlen, List.length_cons]
    omega

/-- The issue of a list of commands, as host events. -/
def commandEvents (is : List Instr) : List HostEvent := is.map fun i => .command (encode i)

/-- The step that takes an encoded command runs it, and leaves the events behind it waiting. -/
theorem step_withInbox_command {i : Instr} {s t : State} (es : List HostEvent) (h : exec i s = .next t) :
    step (withInbox (.command (encode i) :: es) s) = .next (withInbox es t) :=
  calc step (withInbox (.command (encode i) :: es) s) = exec i (withInbox es s) :=
        stepRunsTheDecodedCommand _ (encode i) es i rfl (decode_encode i)
    _ = .next (withInbox es t) := exec_withInbox es h

/-- A run of one step more, where the first step completes. -/
theorem run_succ_of_step {M : Host.Core} {n : Nat} {s t : M.State} (h : M.step s = .next t) :
    M.run (n + 1) s = M.run n t := by
  simp only [Host.Core.run, h]

/-- Stepping once for each command issued takes all of them and does what executing them in order does. -/
theorem run_commandEvents {is : List Instr} {s t : State} (h : execAll is s = .next t) :
    Host.Core.run core is.length (withInbox (commandEvents is) s) = .next (withInbox [] t) := by
  induction is generalizing s with
  | nil => cases h; rfl
  | cons i is ih =>
    obtain ⟨u, hu, ht⟩ := execAll_cons_next h
    have hstep : core.step (withInbox (commandEvents (i :: is)) s) = .next (withInbox (commandEvents is) u) :=
      step_withInbox_command (commandEvents is) hu
    rw [List.length_cons, run_succ_of_step hstep]
    exact ih ht

/-- Settles O38: the events are all taken, so that the port is again the one with no event waiting. -/
theorem steppingRunsTheCommandsInOrder : Obligations.SteppingRunsTheCommandsInOrder := by
  intro is s hinbox
  obtain ⟨t, ht⟩ := execAll_completes is s
  have hempty : withInbox [] t = t := withInbox_self ((execAll_inbox ht).trans hinbox)
  exact ⟨t, ht, execAll_responses_length ht, (run_commandEvents ht).trans (congrArg _ hempty)⟩

/-! ### A system of blocks (20_memory R41) -/

/-- A step of a block replaces that block by its next state. -/
theorem stepBlock_of_step {sys : System} {k : Nat} {s t : State} (hk : sys[k]? = some s) (h : step s = .next t) :
    System.stepBlock sys k = some (.next (sys.set k t)) := by
  simp [System.stepBlock, hk, h]

/-- Settles O55: the list of blocks is written at `k` only. -/
theorem blocksShareNothing : Obligations.BlocksShareNothing := by
  intro sys k s hk
  obtain ⟨t, ht⟩ := everyStepCompletes s
  obtain ⟨hlt, -⟩ := List.getElem?_eq_some_iff.mp hk
  exact ⟨t, sys.set k t, ht, stepBlock_of_step hk ht, List.getElem?_set_self hlt,
    fun _ hj => List.getElem?_set_ne hj.symm⟩

end Sys2Proof.Proofs
end

section
/-! SUPPORT. The statements about encoding (30_encoding): decoder and encoder are inverse to each other, the decoder accepts exactly
the rows of the opcode map, which are disjoint, a command or an illegal word is answered by one response, and the assembler takes the
operands in range. -/

namespace Sys2Proof.Proofs

open Sys2Proof.Machine Sys2Proof.Laws

/-! ### Decode and encode (30_encoding R47) -/

/-- Settles O28, by the command's shape: the decoder finds the opcode's case and in it the operand. -/
theorem decodeInvertsEncode : Obligations.DecodeInvertsEncode := decode_encode

/-- A shape-N word that is accepted is its command's opcode with nothing behind it (R45). -/
theorem encode_of_shapeN {op : Byte} {arg : Word} {i j : Instr} (h : shapeN op arg i = .ok j)
    (hi : encode i = pack op 0) : encode j = pack op arg := by
  unfold shapeN at h
  split at h
  · cases h; subst arg; exact hi
  · cases h

/-- A shape-B word that is accepted is its command's opcode with a zero-extended byte behind it (R45). -/
theorem encode_of_shapeB {op : Byte} {arg : Word} {f : Byte → Instr} {j : Instr} (h : shapeB op arg f = .ok j)
    (hf : ∀ b, encode (f b) = pack op (b.setWidth 32)) : encode j = pack op arg := by
  unfold shapeB at h
  split at h
  next hhigh => cases h; rw [hf, zext_of_high_zero arg hhigh]
  next => cases h

/-- Each case of the decoder's list accepts only the encodings of its own command. -/
theorem encode_of_decodeFields {op : Byte} {arg : Word} {i : Instr} (h : decodeFields op arg = .ok i) :
    encode i = pack op arg := by
  revert h
  fun_cases decodeFields op arg with
  | case1 => intro h; cases h; subst op; rfl
  | case2 | case3 | case4 | case5 | case6 | case8 | case10 | case12 =>
    subst op; exact fun h => encode_of_shapeN h rfl
  | case7 | case9 | case11 | case13 => subst op; exact fun h => encode_of_shapeB h fun _ => rfl
  | case14 => exact nofun

/-- Settles O29: the word is the packing of its two fields, and the decoder keeps both. -/
theorem encodeInvertsDecode : Obligations.EncodeInvertsDecode := fun word _ h =>
  (encode_of_decodeFields h).trans (pack_opOf_argOf word)

/-! ### The rows of the opcode map (30_encoding R46, R48) -/

/-- The bits of `arg` that are zero in every encoding of the command's shape: none for W, the upper 24 for B, all for N (R45). -/
def unusedArgBits : Instr → Word
  | .seedw _ => 0
  | .c16byte _ | .c16rdt _ | .c32byte _ | .c32rdt _ => 0xFFFFFF00
  | .init | .next32 | .next64 | .rstate | .c16start | .c16result | .c32start | .c32result => 0xFFFFFFFF

/-- The row of the opcode map that a command is of, with mask and pattern as packed fields. -/
def rowOf (i : Instr) : OpcodeRow := ⟨i.mnemonic, pack 0xFF (unusedArgBits i), pack (opOf (encode i)) 0⟩

/-- The command with its operand, where it has one, taken from `arg` (R45). -/
def withArg (arg : Word) : Instr → Instr
  | .seedw _ => .seedw arg
  | .c16byte _ => .c16byte (arg.extractLsb' 0 8)
  | .c16rdt _ => .c16rdt (arg.extractLsb' 0 8)
  | .c32byte _ => .c32byte (arg.extractLsb' 0 8)
  | .c32rdt _ => .c32rdt (arg.extractLsb' 0 8)
  | i => i

/-- The opcode map is the rows of the 13 commands. -/
theorem opcodeRows_eq_map_rowOf : opcodeRows =
    [.seedw 0, .init, .next32, .next64, .rstate, .c16start, .c16byte 0, .c16result, .c16rdt 0, .c32start, .c32byte 0,
      .c32result, .c32rdt 0].map rowOf := by
  decide

/-- A row says nothing of the operand. -/
theorem rowOf_withArg (arg : Word) (i : Instr) : rowOf (withArg arg i) = rowOf i := by
  cases i with
  | seedw | c16byte | c16rdt | c32byte | c32rdt => simp [withArg, rowOf, encode, unusedArgBits, Instr.mnemonic]
  | init | next32 | next64 | rstate | c16start | c16result | c32start | c32result => rfl

theorem rowOf_mem_opcodeRows (i : Instr) : rowOf i ∈ opcodeRows := by
  rw [← rowOf_withArg 0 i, opcodeRows_eq_map_rowOf]
  refine List.mem_map_of_mem ?_
  cases i <;> simp [withArg]

theorem pack_eq_pack_iff {op op' : Byte} {arg arg' : Word} : pack op arg = pack op' arg' ↔ op = op' ∧ arg = arg' := by
  refine ⟨fun h => ?_, fun ⟨hop, harg⟩ => by rw [hop, harg]⟩
  exact ⟨by simpa using congrArg opOf h, by simpa using congrArg argOf h⟩

/-- A word is of a command's row when it has the command's opcode and no unused bit of `arg` is set. -/
theorem rowOf_fits_iff (i : Instr) (word : CmdWord) :
    (rowOf i).fits word = true ↔ opOf word = opOf (encode i) ∧ argOf word &&& unusedArgBits i = 0 := by
  have hop : opOf word &&& 0xFF = opOf word := BitVec.and_allOnes
  calc (rowOf i).fits word = true
      ↔ pack (opOf word) (argOf word) &&& pack 0xFF (unusedArgBits i) = pack (opOf (encode i)) 0 := by
        rw [pack_opOf_argOf]; exact beq_iff_eq
    _ ↔ _ := by rw [pack_and_pack, pack_eq_pack_iff, hop]

theorem argOf_encode_and_unusedArgBits (i : Instr) : argOf (encode i) &&& unusedArgBits i = 0 := by
  cases i with
  | seedw w => exact BitVec.and_zero
  | init | next32 | next64 | rstate | c16start | c16result | c32start | c32result => rfl
  | c16byte b | c16rdt b | c32byte b | c32rdt b =>
    rw [encode, argOf_pack]; exact zext_byte_and_mask b

theorem rowOf_fits_encode (i : Instr) : (rowOf i).fits (encode i) = true :=
  (rowOf_fits_iff i _).mpr ⟨rfl, argOf_encode_and_unusedArgBits i⟩

/-- An `arg` that has nothing under the mask of shape B is the zero extension of its low byte (the converse of
`zext_byte_and_mask`). -/
theorem zext_of_and_mask {arg : Word} (h : arg &&& 0xFFFFFF00#32 = 0) : (arg.extractLsb' 0 8).setWidth 32 = arg := by
  refine zext_of_high_zero arg ?_
  have hmask : (arg &&& 0xFFFFFF00#32).extractLsb' 8 24 = arg.extractLsb' 8 24 := by
    rw [BitVec.extractLsb'_and]; exact BitVec.and_allOnes
  rw [← hmask, h]; rfl

/-- A word with a command's opcode and no unused bit set is an encoding of that command, with the word's own operand. -/
theorem encode_withArg {arg : Word} {i : Instr} (h : arg &&& unusedArgBits i = 0) :
    encode (withArg arg i) = pack (opOf (encode i)) arg := by
  cases i with
  | seedw w => simp [withArg, encode]
  | init | next32 | next64 | rstate | c16start | c16result | c32start | c32result =>
    have harg : arg = 0 := (BitVec.and_allOnes (x := arg)).symm.trans h
    subst harg; rfl
  | c16byte b | c16rdt b | c32byte b | c32rdt b =>
    simp [withArg, encode, zext_of_and_mask h]

/-- Every legal word is the encoding of a command. -/
theorem exists_encode_of_legalWord {word : CmdWord} (h : legalWord word = true) : ∃ i, encode i = word := by
  obtain ⟨r, hr, hfits⟩ := List.any_eq_true.mp h
  rw [opcodeRows_eq_map_rowOf] at hr
  obtain ⟨i, -, rfl⟩ := List.mem_map.mp hr
  obtain ⟨hop, harg⟩ := (rowOf_fits_iff i word).mp hfits
  exact ⟨withArg (argOf word) i, by rw [encode_withArg harg, ← hop, pack_opOf_argOf]⟩

/-- The word that decodes to a command is its encoding, so it fits the command's row. -/
theorem rowOf_fits_of_decode {word : CmdWord} {i : Instr} (h : decode word = .ok i) : (rowOf i).fits word = true :=
  encodeInvertsDecode word i h ▸ rowOf_fits_encode i

theorem legalWord_of_decode {word : CmdWord} {i : Instr} (h : decode word = .ok i) : legalWord word = true :=
  legalWord_of_fits (rowOf i) (rowOf_mem_opcodeRows i) (rowOf_fits_of_decode h)

/-- Settles O30: a legal word is an encoding, which decodes; and a word that decodes fits its command's row. -/
theorem decodeAcceptsExactlyTheRows : Obligations.DecodeAcceptsExactlyTheRows := by
  refine fun word => ⟨⟨fun ⟨i, h⟩ => legalWord_of_decode h, fun hlegal => ?_⟩,
    fun i h => ⟨rowOf i, rowOf_mem_opcodeRows i, rowOf_fits_of_decode h, rfl⟩⟩
  obtain ⟨i, rfl⟩ := exists_encode_of_legalWord hlegal
  exact ⟨i, decode_encode i⟩

/-- A word that fits a row of the opcode map has the row's opcode: every mask covers the whole of `op` (R46). -/
theorem opOf_pattern_of_fits {r : OpcodeRow} (hr : r ∈ opcodeRows) {word : CmdWord} (h : r.fits word = true) :
    opOf r.pattern = opOf word := by
  rw [opcodeRows_eq_map_rowOf] at hr
  obtain ⟨i, -, rfl⟩ := List.mem_map.mp hr
  simp [rowOf, ((rowOf_fits_iff i word).mp h).1]

/-- No two rows have the same opcode. -/
theorem opcodes_nodup : (opcodeRows.map fun r => opOf r.pattern).Nodup := by
  decide

/-- Settles O31: the rows that fit a word have its opcode, and an opcode stands in one row only. -/
theorem noWordFitsTwoRows : Obligations.NoWordFitsTwoRows := by
  intro word
  calc (opcodeRows.filter fun r => r.fits word).length
      = opcodeRows.countP fun r => r.fits word := List.countP_eq_length_filter.symm
    _ ≤ opcodeRows.countP fun r => opOf r.pattern == opOf word :=
        List.countP_mono_left fun r hr h => beq_iff_eq.mpr (opOf_pattern_of_fits hr h)
    _ = (opcodeRows.map fun r => opOf r.pattern).count (opOf word) := by rw [List.count_eq_countP, List.countP_map]; rfl
    _ ≤ 1 := List.nodup_iff_count_le_one.mp opcodes_nodup _

/-- Settles O32: the legal words are encodings, and the illegal ones are computed. -/
theorem writtenOutWordsDecode : Obligations.WrittenOutWordsDecode :=
  ⟨decode_encode (.seedw 200), decode_encode .next32, by decide, decode_encode (.c16byte 0x31), by decide,
    decode_encode (.c32rdt 0xFF), by decide⟩

/-! ### The one response (30_encoding R44, R48; 60_exceptions R89) -/

/-- Settles O27: a word that decoded would fit a row, so this one is answered by the error response alone. -/
theorem anIllegalWordIsAnsweredEIllegal : Obligations.AnIllegalWordIsAnsweredEIllegal := by
  intro word s hillegal
  cases h : decode word with
  | ok i => rw [legalWord_of_decode h] at hillegal; cases hillegal
  | error e =>
    exact ⟨s.respond (errorResponse .illegal), errorResponse .illegal, issue_of_decode_error h s, rfl, rfl, rfl,
      ⟨rfl, rfl, rfl⟩, rfl, rfl, rfl⟩

/-- The one error that a decoded command of a unit can answer (60_exceptions R89). -/
def unitError : BlockUnit → Error
  | .prng => .prngUninit
  | .crc16 => .c16Idle
  | .crc32 => .c32Idle

/-- A precondition is answered OK under its flag, when the rest of the command is, and is the error response without it. -/
theorem require_answers {flag : Bool} {e : Error} {s t : State} {rest : Result} (h : require flag e s rest = .next t)
    (hrest : rest = .next t → ∃ d, Responds s t (okResponse d)) :
    (flag = true ∧ ∃ d, Responds s t (okResponse d)) ∨ (¬ flag = true ∧ t = s.respond (errorResponse e)) := by
  obtain ⟨hflag, hnext⟩ | ⟨hflag, ht⟩ := require_next h
  · exact .inl ⟨hflag, hrest hnext⟩
  · exact .inr ⟨by simp [hflag], ht⟩

/-- All the answers of a command: OK when its precondition holds, and else its unit's error with nothing else changed. -/
theorem exec_answers {i : Instr} {s t : State} (h : exec i s = .next t) :
    (Ready i s ∧ ∃ d, Responds s t (okResponse d)) ∨ (¬ Ready i s ∧ t = s.respond (errorResponse (unitError i.unit))) := by
  cases i with
  | seedw | c16start | c16rdt | c32start | c32rdt => cases h; exact .inl ⟨trivial, _, rfl⟩
  | init => cases h; exact .inl ⟨trivial, 0, by simp [Responds, okResponse]⟩
  | next32 | next64 | rstate | c16byte | c16result | c32byte | c32result =>
    exact require_answers h fun hnext => ⟨_, by cases hnext; rfl⟩

/-- Codes 5 to 15 are never produced (R44). -/
theorem code_le_four (status : Status) : status.code.toNat ≤ 4 := by
  cases status with
  | ok => decide
  | error e => cases e <;> decide

/-- Settles O23: a command completes, and its response is an OK or an error response. -/
theorem everyCommandGivesOneResponse : Obligations.EveryCommandGivesOneResponse := by
  intro i s
  obtain ⟨t, ht⟩ := exec_completes i s
  obtain ⟨-, d, hr⟩ | ⟨-, rfl⟩ := exec_answers ht
  · exact ⟨t, okResponse d, ⟨ht, hr⟩, fun hne => absurd rfl hne, code_le_four _⟩
  · exact ⟨_, errorResponse (unitError i.unit), ⟨ht, rfl⟩, fun _ => rfl, code_le_four _⟩

/-! ### The assembler's operands (30_encoding R50) -/

/-- A number taken only below `2 ^ width` is taken at its own value. -/
theorem ofNat_of_lt_eq_some_iff {width n : Nat} {v : BitVec width} :
    (if n < 2 ^ width then some (BitVec.ofNat width n) else none) = some v ↔ v.toNat = n := by
  refine ⟨fun h => ?_, fun h => ?_⟩
  · obtain ⟨hlt, heq⟩ := Option.ite_none_right_eq_some.mp h
    cases heq
    exact Nat.mod_eq_of_lt hlt
  · subst h
    rw [if_pos v.isLt, BitVec.ofNat_toNat, BitVec.setWidth_eq]

/-- Settles O56: both operand shapes are the same range rule, at 32 and at 8 bits. -/
theorem assemblerRefusesOutOfRangeOperands : Obligations.AssemblerRefusesOutOfRangeOperands :=
  fun _ => ⟨fun w => ofNat_of_lt_eq_some_iff (v := w), fun b => ofNat_of_lt_eq_some_iff (v := b)⟩

end Sys2Proof.Proofs
end

section
/-! SUPPORT. The statements about seeding (40_seed): the construction of the generator's state, the seed buffer under appends, and the
commands SEEDW and INIT, alone and as the macro MKGEN. -/

namespace Sys2Proof.Proofs

open Sys2Proof.Machine Sys2Proof.Laws

/-! ### The construction (40_seed R56, R57) -/

/-- Settles O42: no case of the construction gives four zero words. -/
theorem constructionIsNeverAllZero : Obligations.ConstructionIsNeverAllZero := construct_nonZero

theorem seed4_zero : seed4 0 0 0 0 = fallback := if_pos (by decide)

/-- Settles O46: the cases of the construction that pad, the one that expands, and the fallback. -/
theorem partialSeedsArePaddedWithZeros : Obligations.PartialSeedsArePaddedWithZeros :=
  fun _ _ _ _ => ⟨rfl, rfl, rfl, seed4_zero⟩

/-- The clock matters only when there is no seed word (40_seed R57). -/
theorem construct_eq_of_ne_nil {ws : List Word} (h : ws ≠ []) (d d' : ClockSample) : construct ws d = construct ws d' := by
  match ws with
  | [] => exact absurd rfl h
  | [_] | [_, _] | [_, _, _] | _ :: _ :: _ :: _ :: _ => rfl

/-! ### The seed buffer (10_state R16) -/

theorem words_length (p : Prng) : p.words.length = p.seedCnt.val :=
  List.length_take_of_le (Nat.le_of_lt_succ p.seedCnt.isLt)

theorem words_eq_nil_iff (p : Prng) : p.words = [] ↔ p.seedCnt.val = 0 := by
  rw [← List.length_eq_zero_iff, words_length]

theorem quad_get_set (q : Quad) (i j : Fin 4) (v : Word) : (q.set i v).get j = if j = i then v else q.get j := by
  fin_cases i <;> fin_cases j <;> rfl

theorem append_of_lt {p : Prng} (h : p.seedCnt.val < 4) (w : Word) :
    p.append w = { p with seed := p.seed.set ⟨p.seedCnt.val, h⟩ w, seedCnt := ⟨p.seedCnt.val + 1, by omega⟩ } :=
  dif_pos h

theorem append_of_full {p : Prng} (h : p.seedCnt.val = 4) (w : Word) : p.append w = p :=
  dif_neg (by omega)

/-- Appending, one after the other, the words of a list to the seed sequence keeps the first four in all (40_seed R60). -/
theorem foldl_append_words (ws : List Word) (p : Prng) : (ws.foldl Prng.append p).words = (p.words ++ ws).take 4 := by
  induction ws generalizing p with
  | nil =>
    have hlen : p.words.length ≤ 4 := words_length p ▸ Nat.le_of_lt_succ p.seedCnt.isLt
    rw [List.foldl_nil, List.append_nil, List.take_of_length_le hlen]
  | cons w ws ih =>
    rw [List.foldl_cons, ih, append_words]
    split
    · rw [List.append_assoc, List.singleton_append]
    · have hfull : 4 ≤ p.words.length := by rw [words_length]; omega
      rw [List.take_append_of_le_length hfull, List.take_append_of_le_length hfull]

/-! ### SEEDW (40_seed R58) -/

theorem exec_seedw (w : Word) (s : State) :
    exec (.seedw w) s = .next ((s.setPrng (s.prng.append w)).respond (okResponse 0)) := rfl

/-- Settles O1: an append below four words writes one of them, and at four it is nothing. -/
theorem seedwAppendsOneSeedWord : Obligations.SeedwAppendsOneSeedWord := by
  refine fun w s => ⟨rfl, _, exec_seedw w s, rfl, ⟨rfl, rfl, rfl⟩, fun hlt => ?_, fun hfull => ?_, append_s _ w,
    append_valid _ w, rfl, rfl⟩
  · rw [respond_prng, setPrng_prng, append_of_lt hlt]
    exact ⟨rfl, fun i => by simp only [quad_get_set, Fin.ext_iff]⟩
  · rw [respond_prng, setPrng_prng, append_of_full hfull]
    exact ⟨rfl, rfl⟩

/-- A list of SEEDW commands appends its words in order and is answered OK throughout. -/
theorem execAll_seedw (ws : List Word) (s : State) :
    ∃ t, execAll (ws.map .seedw) s = .next t ∧ t.prng = ws.foldl Prng.append s.prng ∧
      t.port.responses = s.port.responses ++ List.replicate ws.length (okResponse 0) := by
  induction ws generalizing s with
  | nil => exact ⟨s, rfl, rfl, (List.append_nil _).symm⟩
  | cons w ws ih =>
    obtain ⟨t, hrun, hprng, hresponses⟩ := ih ((s.setPrng (s.prng.append w)).respond (okResponse 0))
    refine ⟨t, (execAll_cons (exec_seedw w s)).trans hrun, hprng, ?_⟩
    simp [hresponses, List.replicate_succ]

/-! ### INIT (40_seed R59) -/

theorem exec_init (s : State) :
    exec .init s = .next ((s.afterDraw.setPrng (s.prng.constructed s.clockNow)).respond (okResponse 0)) := rfl

theorem afterDraw_of_seeded {s : State} (h : s.prng.seedCnt.val ≠ 0) : s.afterDraw = s :=
  if_neg fun h0 => h (congrArg Fin.val h0)

/-- Settles O2: with a seed word collected neither the draw nor its being made matters. -/
theorem initConstructsTheGenerator : Obligations.InitConstructsTheGenerator := by
  intro s
  refine ⟨rfl, _, exec_init s, by simp [Responds], ⟨s.clockNow, rfl⟩, fun hseeded => ⟨fun d => ?_, ?_⟩, rfl, rfl, rfl,
    by simp, by simp, by simp⟩
  · exact construct_eq_of_ne_nil (mt (words_eq_nil_iff s.prng).mp hseeded) _ d
  · rw [afterDraw_of_seeded hseeded]
    exact ⟨rfl, rfl, rfl⟩

/-! ### MKGEN (30_encoding R51) -/

/-- Settles O45: from an empty buffer the SEEDW commands collect the first four words, and INIT constructs from those. -/
theorem mkgenUsesTheFirstFourWords : Obligations.MkgenUsesTheFirstFourWords := by
  intro ws s hne hempty
  obtain ⟨u, hrun, hprng, hresponses⟩ := execAll_seedw ws s
  have hwords : u.prng.words = ws.take 4 := by
    rw [hprng, foldl_append_words, (words_eq_nil_iff s.prng).mpr hempty, List.nil_append]
  have hinit := (execAll_append hrun).trans (execAll_cons (is := []) (exec_init u))
  refine ⟨_, hinit, rfl, rfl, fun d => ?_, ?_⟩
  · rw [respond_prng, setPrng_prng, constructed_s, hwords]
    exact construct_eq_of_ne_nil (by simp [hne]) _ d
  · simp [hresponses, List.replicate_succ']

end Sys2Proof.Proofs
end

section
/-! SUPPORT. The statements about the generator (41_prng): the zero state under a step, the wide step as two steps, and the commands
NEXT32, NEXT64 and RSTATE. -/

namespace Sys2Proof.Proofs

open Sys2Proof.Machine Sys2Proof.Laws

/-! ### The two steps (41_prng R64, R66) -/

theorem not_nonZero_iff (q : Quad) : ¬ q.NonZero ↔ q = ⟨0, 0, 0, 0⟩ := by
  rw [nonZero_iff, not_not, Quad.mk.injEq]

/-- From four zero words the new word is zero too, since only shifts and xor make it (41_prng R65). -/
theorem step32_zero : (step32 ⟨0, 0, 0, 0⟩).1 = ⟨0, 0, 0, 0⟩ := by decide

theorem step32_nonZero_iff (q : Quad) : (step32 q).1.NonZero ↔ q.NonZero := by
  refine ⟨fun h => by_contra fun hq => ?_, step32_nonZero⟩
  rw [(not_nonZero_iff q).mp hq, step32_zero] at h
  exact h rfl

/-- Settles O43: the zero state steps to itself and no other state steps to it; the wide step leaves the state of two steps. -/
theorem stepsKeepTheStateNonZero : Obligations.StepsKeepTheStateNonZero := by
  refine fun q => ⟨step32_nonZero_iff q, ?_⟩
  rw [step64_state, step32_nonZero_iff, step32_nonZero_iff]

theorem step64_output (q : Quad) : (step64 q).2 = joinWords (step64 q).1.w2 (step64 q).1.w3 := rfl

/-- Settles O44: the wide step leaves the state of two steps, whose last two words are the two outputs. -/
theorem theWideStepIsTwoSteps : Obligations.TheWideStepIsTwoSteps := by
  refine fun q => Prod.ext (step64_state q) ?_
  rw [step64_output, step64_state]
  rfl

/-! ### The precondition of the generator's commands (41_prng R63) -/

theorem requirePrng_of_valid {s : State} (h : s.prng.valid = true) (rest : Result) : requirePrng s rest = rest := if_pos h

theorem requirePrng_of_uninit {s : State} (h : s.prng.valid = false) (rest : Result) :
    requirePrng s rest = .next (s.respond (errorResponse .prngUninit)) :=
  if_neg (by simp [h])

/-! ### NEXT32 and NEXT64 (41_prng R65, R67) -/

theorem exec_next32_of_valid {s : State} (h : s.prng.valid = true) :
    exec .next32 s =
      .next ((s.writeS (step32 s.prng.s).1).respond (okResponse (resultData (step32 s.prng.s).2))) :=
  requirePrng_of_valid h _

theorem exec_next64_of_valid {s : State} (h : s.prng.valid = true) :
    exec .next64 s =
      .next ((s.writeS (step64 s.prng.s).1).respond (okResponse (resultData (step64 s.prng.s).2))) :=
  requirePrng_of_valid h _

/-- Settles O3: the step's new S is written and its output answered. -/
theorem next32AdvancesOneStep : Obligations.Next32AdvancesOneStep := by
  refine fun s => ⟨rfl, fun hvalid => ?_, fun huninit => requirePrng_of_uninit huninit _⟩
  exact ⟨_, exec_next32_of_valid hvalid, rfl, ⟨rfl, rfl, rfl⟩, rfl, hvalid, rfl, rfl, rfl, rfl⟩

/-- The halves of the output do not overlap, so that joining them is concatenation (41_prng R66). -/
theorem joinWords_eq_append (hi lo : Word) : joinWords hi lo = hi ++ lo := by
  rw [joinWords, ← BitVec.setWidth_append_eq_shiftLeft_setWidth_or, BitVec.setWidth_eq]

/-- Settles O4: the wide step's new S is written and its last two words are answered side by side. -/
theorem next64AdvancesTheWideStep : Obligations.Next64AdvancesTheWideStep := by
  refine fun s => ⟨rfl, fun hvalid => ?_, fun huninit => requirePrng_of_uninit huninit _⟩
  refine ⟨_, exec_next64_of_valid hvalid, ?_, ⟨rfl, rfl, rfl⟩, rfl, hvalid, rfl, rfl, rfl, rfl⟩
  rw [step64_output, joinWords_eq_append]
  rfl

/-! ### RSTATE (41_prng R69) -/

theorem exec_rstate_of_valid {s : State} (h : s.prng.valid = true) :
    exec .rstate s = .next (s.respond (okResponse (snapshotData s.prng.s))) :=
  requirePrng_of_valid h _

/-- What is read from 32 bits up does not see the word at the bottom. -/
theorem extract_above_word {width : Nat} (hi : BitVec width) (lo : Word) (k : Nat) :
    (hi ++ lo).extractLsb' (32 + k) 32 = hi.extractLsb' k 32 := by
  rw [BitVec.extractLsb'_append_eq_of_le (Nat.le_add_right 32 k), Nat.add_sub_cancel_left]

/-- Word `i` of S stands above `i` words of the snapshot. -/
theorem snapshotData_extract (q : Quad) (i : Fin 4) : (snapshotData q).extractLsb' (32 * i.val) 32 = q.get i := by
  match i with
  | 0 => exact BitVec.extractLsb'_append_eq_right
  | 1 => exact (extract_above_word _ q.w0 0).trans BitVec.extractLsb'_append_eq_right
  | 2 =>
    calc (q.w3 ++ q.w2 ++ q.w1 ++ q.w0).extractLsb' 64 32
        = (q.w3 ++ q.w2 ++ q.w1).extractLsb' 32 32 := extract_above_word _ q.w0 32
      _ = (q.w3 ++ q.w2).extractLsb' 0 32 := extract_above_word _ q.w1 0
      _ = q.w2 := BitVec.extractLsb'_append_eq_right
  | 3 =>
    calc (q.w3 ++ q.w2 ++ q.w1 ++ q.w0).extractLsb' 96 32
        = (q.w3 ++ q.w2 ++ q.w1).extractLsb' 64 32 := extract_above_word _ q.w0 64
      _ = (q.w3 ++ q.w2).extractLsb' 32 32 := extract_above_word _ q.w1 32
      _ = q.w3 := BitVec.extractLsb'_append_eq_left

/-- Settles O5: the data is the snapshot, and the response is all that is written. -/
theorem rstateShowsTheState : Obligations.RstateShowsTheState := fun s =>
  ⟨rfl, fun hvalid => ⟨_, exec_rstate_of_valid hvalid, snapshotData_extract s.prng.s⟩,
    fun huninit => requirePrng_of_uninit huninit _⟩

end Sys2Proof.Proofs
end

section
/-! SUPPORT. What both CRC families need: an operand byte in the command word, the build seen entry by entry, a hash as the run of a
unit's operations, and commands that all give the same response. -/

namespace Sys2Proof.Proofs

open Sys2Proof.Machine Sys2Proof.Laws

/-- A shape-B word is the opcode, 24 zero bits and the operand (30_encoding R45). -/
theorem pack_zext_byte (op b : Byte) : pack op (b.setWidth 32) = ((op ++ 0#24 : BitVec 32) ++ b : BitVec 40) := by
  have hzext : b.setWidth 32 = 0#24 ++ b := BitVec.setWidth_eq_append (by omega)
  rw [pack, hzext, BitVec.append_assoc]
  rfl

/-! ### One unit -/

section
variable {width : Nat} (free : Byte → BitVec width) {f : Byte → BitVec width} (initial : BitVec width) {u : CrcUnit width}

/-- After the build of a table not built before, every entry has been written with the table function's value. -/
theorem lookup_ensureBuilt_of_not (h : u.tvalid = false) (i : Byte) :
    Table.lookup (u.ensureBuilt f).table i.toNat = some (f i) := by
  rw [ensureBuilt_table_of_not f u h, lookup_build]

theorem ensureBuilt_table_of_tvalid (h : u.tvalid = true) : (u.ensureBuilt f).table = u.table :=
  congrArg CrcUnit.table (ensureBuilt_of_tvalid f u h)

/-- The message bytes that an operation folds. -/
def CrcOp.bytes : CrcOp → List Byte
  | .byte b => [b]
  | .start | .readEntry _ | .none => []

/-- An operation on a hash in progress, other than a start, folds its bytes. -/
theorem crcAfter_acc_of_active {op : CrcOp} (hop : op ≠ .start) (hactive : u.active = true) (hu : u.Coherent f) :
    (crcAfter free f initial op u).acc = op.bytes.foldl (crcFold f) u.acc := by
  cases op with
  | start => exact absurd rfl hop
  | byte b => rw [crcAfter_byte_of_active _ _ _ b hactive, read_of_active free hu hactive]; rfl
  | readEntry => exact ensureBuilt_acc f u
  | none => rfl

/-- A CRC unit after a list of operations. -/
def crcRun (f : Byte → BitVec width) (ops : List CrcOp) (u : CrcUnit width) : CrcUnit width :=
  ops.foldl (fun v op => crcAfter free f initial op v) u

/-- A hash in progress over a valid table stays one, and folds the bytes of its operations in order. -/
theorem crcRun_of_active {ops : List CrcOp} (hops : .start ∉ ops) (hactive : u.active = true) (hu : u.Coherent f) :
    (crcRun free initial f ops u).acc = (ops.flatMap CrcOp.bytes).foldl (crcFold f) u.acc ∧
      (crcRun free initial f ops u).active = true ∧ (crcRun free initial f ops u).Coherent f := by
  induction ops generalizing u with
  | nil => exact ⟨rfl, hactive, hu⟩
  | cons op ops ih =>
    obtain ⟨hop, hrest⟩ := List.ne_and_not_mem_of_not_mem_cons hops
    have hacc := crcAfter_acc_of_active free initial hop.symm hactive hu
    rw [List.flatMap_cons, List.foldl_append, ← hacc]
    exact ih hrest ((crcAfter_active_iff _ _ _).mpr (.inl hactive)) (crcAfter_coherent _ _ hu)

end

/-! ### Lists of commands -/

/-- A list of commands is to the CRC16 unit the run of its operations. -/
theorem execAll_crc16 {is : List Instr} {s t : State} (h : execAll is s = .next t) :
    t.crc16 = crcRun Config.unwrittenT16 init16 tab16 (is.map crcOp16) s.crc16 := by
  induction is generalizing s with
  | nil => cases h; rfl
  | cons i is ih =>
    obtain ⟨u, hu, ht⟩ := execAll_cons_next h
    rw [ih ht, exec_crc16 hu]
    rfl

/-- Commands that each, where `P` holds, answer `r` and leave `P` holding, answer `r` throughout. -/
theorem execAll_same_response {P : State → Prop} {r : Response} {is : List Instr}
    (hstep : ∀ i ∈ is, ∀ s, P s → ∃ t, exec i s = .next t ∧ Responds s t r ∧ P t) {s : State} (hs : P s) :
    ∃ t, execAll is s = .next t ∧ t.port.responses = s.port.responses ++ List.replicate is.length r ∧ P t := by
  induction is generalizing s with
  | nil => exact ⟨s, rfl, (List.append_nil _).symm, hs⟩
  | cons i is ih =>
    obtain ⟨u, hu, hr, hPu⟩ := hstep i List.mem_cons_self s hs
    obtain ⟨t, ht, hresponses, hPt⟩ := ih (fun j hj => hstep j (List.mem_cons_of_mem i hj)) hPu
    have hr : u.port.responses = s.port.responses ++ [r] := hr
    exact ⟨t, (execAll_cons hu).trans ht, by simp [hresponses, hr, List.replicate_succ], hPt⟩

end Sys2Proof.Proofs
end

section
/-! SUPPORT. The statements about CRC-16 (42_crc16): the four commands, the hash of a stream and of a whole message, and leading zero
bytes. -/

namespace Sys2Proof.Proofs

open Sys2Proof.Machine Sys2Proof.Laws

/-! ### The hash of a stream (42_crc16 R79) -/

theorem bytesOf16_eq_flatMap (is : List Instr) : bytesOf16 is = (is.map crcOp16).flatMap CrcOp.bytes := by
  induction is with
  | nil => rfl
  | cons i is ih => cases i <;> simp [bytesOf16, crcOp16, CrcOp.bytes, ih]

/-- Settles O47: to the CRC16 unit the list is a run of operations with no start among them. -/
theorem crc16StreamIsTheFold : Obligations.Crc16StreamIsTheFold := by
  intro is s hstart hactive hcoherent
  obtain ⟨t, ht⟩ := execAll_completes is s
  have hops : .start ∉ is.map crcOp16 := by simpa using hstart
  refine ⟨t, ht, ?_⟩
  rw [execAll_crc16 ht, bytesOf16_eq_flatMap]
  exact crcRun_of_active _ _ hops hactive hcoherent

/-! ### C16START (42_crc16 R75) -/

theorem exec_c16start (s : State) :
    exec .c16start s = .next ((s.setCrc16 ((s.crc16.ensureBuilt tab16).start init16)).respond (okResponse 0)) := rfl

/-- Settles O6: the build leaves a valid table alone and else writes every entry, and the start writes the rest. -/
theorem c16startBeginsAHash : Obligations.C16startBeginsAHash := fun s =>
  ⟨rfl, _, exec_c16start s, rfl, ⟨rfl, rfl, rfl⟩, rfl, rfl, ensureBuilt_tvalid tab16 s.crc16,
    lookup_ensureBuilt_of_not, ensureBuilt_table_of_tvalid, rfl, rfl⟩

/-! ### C16BYTE and C16RESULT (42_crc16 R76, R77) -/

theorem requireC16_of_active {s : State} (h : s.crc16.active = true) (rest : Result) : requireC16 s rest = rest := if_pos h

theorem requireC16_of_idle {s : State} (h : s.crc16.active = false) (rest : Result) :
    requireC16 s rest = .next (s.respond (errorResponse .c16Idle)) :=
  if_neg (by simp [h])

theorem exec_c16byte_of_active {s : State} (h : s.crc16.active = true) (b : Byte) :
    exec (.c16byte b) s =
      .next ((s.setCrc16 { s.crc16 with acc := crcFold (readT16 s) s.crc16.acc b }).respond (okResponse 0)) :=
  requireC16_of_active h _

theorem exec_c16result_of_active {s : State} (h : s.crc16.active = true) :
    exec .c16result s = .next (s.respond (okResponse (resultData s.crc16.acc))) :=
  requireC16_of_active h _

/-- A hash in progress over a valid table reads `tab16` from T16 (10_state R26). -/
theorem readT16_of_active {s : State} (h : s.crc16.Coherent tab16) (hactive : s.crc16.active = true) :
    readT16 s = tab16 :=
  read_of_active _ h hactive

/-- Settles O7: the accumulator alone is written, with the fold through T16, which is `tab16` under the invariant. -/
theorem c16byteFoldsOneByte : Obligations.C16byteFoldsOneByte := by
  refine fun b s => ⟨pack_zext_byte 0x11 b, fun hactive => ?_, fun hidle => requireC16_of_idle hidle _⟩
  refine ⟨_, exec_c16byte_of_active hactive b, rfl, ⟨rfl, rfl, rfl⟩, rfl, fun hcoherent => ?_, rfl, rfl, hactive, rfl, rfl⟩
  rw [respond_crc16, setCrc16_crc16, readT16_of_active hcoherent hactive]
  rfl

/-- Settles O8: the accumulator is answered with 112 zero bits above it. -/
theorem c16resultReadsTheAccumulator : Obligations.C16resultReadsTheAccumulator := by
  refine fun s => ⟨rfl, fun hactive => ?_, fun hidle => requireC16_of_idle hidle _⟩
  have hdata : resultData s.crc16.acc = 0#112 ++ s.crc16.acc := BitVec.setWidth_eq_append (by omega)
  rw [exec_c16result_of_active hactive, hdata]

/-! ### C16RDT (42_crc16 R78) -/

theorem exec_c16rdt (i : Byte) (s : State) :
    exec (.c16rdt i) s = .next (s.withT16.respond (okResponse (resultData (readT16 s.withT16 i)))) := rfl

/-- Settles O9: the entry is read after the build, which writes nothing but the table and its flag. -/
theorem c16rdtReadsATableEntry : Obligations.C16rdtReadsATableEntry := by
  refine fun i s => ⟨pack_zext_byte 0x13 i, _, exec_c16rdt i s, rfl, ⟨rfl, rfl, rfl⟩, fun hcoherent => ?_,
    ensureBuilt_tvalid tab16 s.crc16, lookup_ensureBuilt_of_not, ensureBuilt_table_of_tvalid,
    ensureBuilt_acc tab16 s.crc16, ensureBuilt_active tab16 s.crc16, rfl, rfl⟩
  have hread : readT16 s.withT16 i = tab16 i := read_ensureBuilt _ hcoherent i
  rw [hread]
  rfl

/-! ### The hash of a message (42_crc16 R74, R76) -/

theorem bytesOf16_map_c16byte (bytes : List Byte) : bytesOf16 (bytes.map .c16byte) = bytes := by
  induction bytes with
  | nil => rfl
  | cons b bytes ih => rw [List.map_cons, bytesOf16, ih]

/-- The bytes of a message given to a hash in progress are each answered OK with data 0. -/
theorem execAll_c16byte (bytes : List Byte) {s : State} (hactive : s.crc16.active = true) :
    ∃ t, execAll (bytes.map .c16byte) s = .next t ∧
      t.port.responses = s.port.responses ++ List.replicate bytes.length (okResponse 0) ∧ t.crc16.active = true := by
  have hstep : ∀ i ∈ bytes.map Instr.c16byte, ∀ s : State, s.crc16.active = true →
      ∃ t, exec i s = .next t ∧ Responds s t (okResponse 0) ∧ t.crc16.active = true := by
    intro i hi s hs
    obtain ⟨b, -, rfl⟩ := List.mem_map.mp hi
    exact ⟨_, exec_c16byte_of_active hs b, rfl, hs⟩
  simpa using execAll_same_response hstep hactive

/-- Settles O49: C16START leaves an active hash over a valid table, the bytes fold into its accumulator by `crc16StreamIsTheFold`, and
C16RESULT answers that. -/
theorem hash16AnswersCrc16 : Obligations.Hash16AnswersCrc16 := by
  intro bytes s hcoherent
  obtain ⟨-, s₁, hstart, hstarted, -, hacc₁, hactive₁, -⟩ := c16startBeginsAHash s
  have hcoherent₁ : s₁.crc16.Coherent tab16 := by rw [exec_crc16 hstart]; exact crcAfter_coherent _ _ hcoherent
  obtain ⟨u, hbytes, hresponses, hactive⟩ := execAll_c16byte bytes hactive₁
  obtain ⟨u', hbytes', hacc, -⟩ := crc16StreamIsTheFold (bytes.map .c16byte) s₁ (by simp) hactive₁ hcoherent₁
  obtain rfl : u = u' := Host.Outcome.next.inj (hbytes.symm.trans hbytes')
  have hcrc : u.crc16.acc = crc16 bytes := by rw [hacc, bytesOf16_map_c16byte, hacc₁]; rfl
  have hresult := execAll_cons (is := []) (exec_c16result_of_active hactive)
  refine ⟨_, (execAll_cons hstart).trans ((execAll_append hbytes).trans hresult), ?_⟩
  have hstarted : s₁.port.responses = s.port.responses ++ [okResponse 0] := hstarted
  simp [hresponses, hstarted, hcrc, List.replicate_succ, resultData]

/-! ### Leading zero bytes (42_crc16 R76) -/

theorem crc16_zero_cons (bytes : List Byte) : crc16 (0 :: bytes) = crc16 bytes := by
  have hfold : fold16 init16 0 = init16 := by decide
  rw [crc16, List.foldl_cons, hfold]
  rfl

/-- Settles O53: a zero byte leaves the initial accumulator as it is. -/
theorem leadingZeroBytesDoNotChangeCrc16 : Obligations.LeadingZeroBytesDoNotChangeCrc16 := by
  intro n bytes
  induction n with
  | zero => rfl
  | succ n ih => rw [List.replicate_succ, List.cons_append, crc16_zero_cons, ih]

end Sys2Proof.Proofs
end

section
/-! SUPPORT. The statements about CRC-32 (43_crc32): the four commands, and the hash of a stream and of a whole message. -/

namespace Sys2Proof.Proofs

open Sys2Proof.Machine Sys2Proof.Laws

/-! ### The hash of a stream (43_crc32 R88) -/

/-- A list of commands is to the CRC32 unit the run of its operations. -/
theorem execAll_crc32 {is : List Instr} {s t : State} (h : execAll is s = .next t) :
    t.crc32 = crcRun Config.unwrittenT32 init32 tab32 (is.map crcOp32) s.crc32 := by
  induction is generalizing s with
  | nil => cases h; rfl
  | cons i is ih =>
    obtain ⟨u, hu, ht⟩ := execAll_cons_next h
    rw [ih ht, exec_crc32 hu]
    rfl

theorem bytesOf32_eq_flatMap (is : List Instr) : bytesOf32 is = (is.map crcOp32).flatMap CrcOp.bytes := by
  induction is with
  | nil => rfl
  | cons i is ih => cases i <;> simp [bytesOf32, crcOp32, CrcOp.bytes, ih]

/-- Settles O48: to the CRC32 unit the list is a run of operations with no start among them. -/
theorem crc32StreamIsTheFold : Obligations.Crc32StreamIsTheFold := by
  intro is s hstart hactive hcoherent
  obtain ⟨t, ht⟩ := execAll_completes is s
  have hops : .start ∉ is.map crcOp32 := by simpa using hstart
  refine ⟨t, ht, ?_⟩
  rw [execAll_crc32 ht, bytesOf32_eq_flatMap]
  exact crcRun_of_active _ _ hops hactive hcoherent

/-! ### C32START (43_crc32 R84) -/

theorem exec_c32start (s : State) :
    exec .c32start s = .next ((s.setCrc32 ((s.crc32.ensureBuilt tab32).start init32)).respond (okResponse 0)) := rfl

/-- Settles O10: the build leaves a valid table alone and else writes every entry, and the start writes the rest. -/
theorem c32startBeginsAHash : Obligations.C32startBeginsAHash := fun s =>
  ⟨rfl, _, exec_c32start s, rfl, ⟨rfl, rfl, rfl⟩, rfl, rfl, ensureBuilt_tvalid tab32 s.crc32,
    lookup_ensureBuilt_of_not, ensureBuilt_table_of_tvalid, rfl, rfl⟩

/-! ### C32BYTE and C32RESULT (43_crc32 R85, R86) -/

theorem requireC32_of_active {s : State} (h : s.crc32.active = true) (rest : Result) : requireC32 s rest = rest := if_pos h

theorem requireC32_of_idle {s : State} (h : s.crc32.active = false) (rest : Result) :
    requireC32 s rest = .next (s.respond (errorResponse .c32Idle)) :=
  if_neg (by simp [h])

theorem exec_c32byte_of_active {s : State} (h : s.crc32.active = true) (b : Byte) :
    exec (.c32byte b) s =
      .next ((s.setCrc32 { s.crc32 with acc := crcFold (readT32 s) s.crc32.acc b }).respond (okResponse 0)) :=
  requireC32_of_active h _

theorem exec_c32result_of_active {s : State} (h : s.crc32.active = true) :
    exec .c32result s = .next (s.respond (okResponse (resultData (~~~s.crc32.acc)))) :=
  requireC32_of_active h _

/-- A hash in progress over a valid table reads `tab32` from T32 (10_state R26). -/
theorem readT32_of_active {s : State} (h : s.crc32.Coherent tab32) (hactive : s.crc32.active = true) :
    readT32 s = tab32 :=
  read_of_active _ h hactive

/-- Settles O11: the accumulator alone is written, with the fold through T32, which is `tab32` under the invariant. -/
theorem c32byteFoldsOneByte : Obligations.C32byteFoldsOneByte := by
  refine fun b s => ⟨pack_zext_byte 0x21 b, fun hactive => ?_, fun hidle => requireC32_of_idle hidle _⟩
  refine ⟨_, exec_c32byte_of_active hactive b, rfl, ⟨rfl, rfl, rfl⟩, rfl, fun hcoherent => ?_, rfl, rfl, hactive, rfl, rfl⟩
  rw [respond_crc32, setCrc32_crc32, readT32_of_active hcoherent hactive]
  rfl

/-- The complement on 32 bits is the exclusive or with all ones, and stands below 96 zero bits (43_crc32 R86). -/
theorem resultData_not (acc : Word) : resultData (~~~acc) = 0#96 ++ (acc ^^^ 0xFFFFFFFF#32) := by
  have hnot : ~~~acc = acc ^^^ 0xFFFFFFFF#32 := BitVec.xor_allOnes.symm
  rw [hnot]
  exact BitVec.setWidth_eq_append (by omega)

/-- Settles O12: the complement of the accumulator is answered, and the response is all that is written. -/
theorem c32resultReadsTheComplement : Obligations.C32resultReadsTheComplement := by
  refine fun s => ⟨rfl, fun hactive => ?_, fun hidle => requireC32_of_idle hidle _⟩
  rw [exec_c32result_of_active hactive, resultData_not]

/-! ### C32RDT (43_crc32 R87) -/

theorem exec_c32rdt (i : Byte) (s : State) :
    exec (.c32rdt i) s = .next (s.withT32.respond (okResponse (resultData (readT32 s.withT32 i)))) := rfl

/-- Settles O13: the entry is read after the build, which writes nothing but the table and its flag. -/
theorem c32rdtReadsATableEntry : Obligations.C32rdtReadsATableEntry := by
  refine fun i s => ⟨pack_zext_byte 0x23 i, _, exec_c32rdt i s, rfl, ⟨rfl, rfl, rfl⟩, fun hcoherent => ?_,
    ensureBuilt_tvalid tab32 s.crc32, lookup_ensureBuilt_of_not, ensureBuilt_table_of_tvalid,
    ensureBuilt_acc tab32 s.crc32, ensureBuilt_active tab32 s.crc32, rfl, rfl⟩
  have hread : readT32 s.withT32 i = tab32 i := read_ensureBuilt _ hcoherent i
  rw [hread]
  rfl

/-! ### The hash of a message (43_crc32 R83) -/

theorem bytesOf32_map_c32byte (bytes : List Byte) : bytesOf32 (bytes.map .c32byte) = bytes := by
  induction bytes with
  | nil => rfl
  | cons b bytes ih => rw [List.map_cons, bytesOf32, ih]

/-- The bytes of a message given to a hash in progress over a valid table are each answered OK with data 0, and fold into the
accumulator. -/
theorem execAll_c32byte (bytes : List Byte) {s : State} (hactive : s.crc32.active = true) (hcoherent : s.crc32.Coherent tab32) :
    ∃ t, execAll (bytes.map .c32byte) s = .next t ∧
      t.port.responses = s.port.responses ++ List.replicate bytes.length (okResponse 0) ∧
      t.crc32.acc = bytes.foldl fold32 s.crc32.acc ∧ t.crc32.active = true := by
  have hstep : ∀ i ∈ bytes.map Instr.c32byte, ∀ s : State, s.crc32.active = true →
      ∃ t, exec i s = .next t ∧ Responds s t (okResponse 0) ∧ t.crc32.active = true := by
    intro i hi s hs
    obtain ⟨b, -, rfl⟩ := List.mem_map.mp hi
    exact ⟨_, exec_c32byte_of_active hs b, rfl, hs⟩
  obtain ⟨t, ht, hresponses, -⟩ := execAll_same_response hstep hactive
  obtain ⟨t', ht', hacc, hactive', -⟩ := crc32StreamIsTheFold (bytes.map .c32byte) s (by simp) hactive hcoherent
  obtain rfl : t = t' := Host.Outcome.next.inj (ht.symm.trans ht')
  rw [List.length_map] at hresponses
  rw [bytesOf32_map_c32byte] at hacc
  exact ⟨t, ht, hresponses, hacc, hactive'⟩

/-- Settles O50: C32START leaves an active hash over a valid table with all ones in it, the bytes fold into that, and C32RESULT
answers the complement. -/
theorem hash32AnswersCrc32 : Obligations.Hash32AnswersCrc32 := by
  intro bytes s hcoherent
  obtain ⟨-, s₁, hstart, hstarted, -, hacc₁, hactive₁, -⟩ := c32startBeginsAHash s
  have hcoherent₁ : s₁.crc32.Coherent tab32 := by rw [exec_crc32 hstart]; exact crcAfter_coherent _ _ hcoherent
  obtain ⟨u, hbytes, hresponses, hacc, hactive⟩ := execAll_c32byte bytes hactive₁ hcoherent₁
  have hcrc : ~~~u.crc32.acc = crc32 bytes := by rw [hacc, hacc₁]; rfl
  have hresult := execAll_cons (is := []) (exec_c32result_of_active hactive)
  refine ⟨_, (execAll_cons hstart).trans ((execAll_append hbytes).trans hresult), ?_⟩
  have hstarted : s₁.port.responses = s.port.responses ++ [okResponse 0] := hstarted
  simp [hresponses, hstarted, hcrc, List.replicate_succ, resultData]

end Sys2Proof.Proofs
end

section
/-! SUPPORT. The statements about exceptions (60_exceptions): when a command is answered OK, that an error changes nothing, and that
it repeats until its cause is removed. -/

namespace Sys2Proof.Proofs

open Sys2Proof.Machine Sys2Proof.Laws

/-! ### The response of a command (60_exceptions R89, R90) -/

/-- A command has one response, so two descriptions of it agree. -/
theorem responds_unique {s t : State} {r r' : Response} (h : Responds s t r) (h' : Responds s t r') : r = r' :=
  List.singleton_inj.mp (List.append_cancel_left (h.symm.trans h'))

theorem unitError_code (k : BlockUnit) : (Status.error (unitError k)).code = errorCode k := by
  cases k <;> rfl

theorem errorCode_ne_zero (k : BlockUnit) : errorCode k ≠ 0 := by
  cases k <;> decide

/-- Settles O24: the one response is an OK when the command is ready, and else its unit's error, whose code is not 0. -/
theorem okExactlyWhenReady : Obligations.OkExactlyWhenReady := by
  rintro i s t r ⟨hexec, hr⟩
  obtain ⟨hready, d, hok⟩ | ⟨hnot, rfl⟩ := exec_answers hexec
  · cases responds_unique hr hok
    exact ⟨iff_of_true rfl hready, absurd hready⟩
  · have hcode := unitError_code i.unit
    cases responds_unique hr (r' := errorResponse (unitError i.unit)) rfl
    exact ⟨iff_of_false (hcode ▸ errorCode_ne_zero i.unit) hnot, fun _ => ⟨hcode, rfl⟩⟩

/-! ### The causes of an error (60_exceptions R89, R93) -/

/-- The word is answered by the error `e` in the state `s`: it is no command, or a command whose precondition fails. -/
inductive Rejected (word : CmdWord) (s : State) : Error → Prop where
  | illegal {e : Illegal} (hdecode : decode word = .error e) : Rejected word s .illegal
  | notReady {i : Instr} (hdecode : decode word = .ok i) (hnot : ¬ Ready i s) : Rejected word s (unitError i.unit)

theorem exec_of_not_ready {i : Instr} {s : State} (h : ¬ Ready i s) :
    exec i s = .next (s.respond (errorResponse (unitError i.unit))) := by
  obtain ⟨t, ht⟩ := exec_completes i s
  obtain ⟨hready, -⟩ | ⟨-, rfl⟩ := exec_answers ht
  · exact absurd hready h
  · exact ht

/-- An error is its response and nothing else (60_exceptions R91). -/
theorem issue_of_rejected {word : CmdWord} {s : State} {e : Error} (h : Rejected word s e) :
    issue word s = .next (s.respond (errorResponse e)) := by
  cases h with
  | illegal hdecode => exact issue_of_decode_error hdecode s
  | notReady hdecode hnot => exact (issue_of_decode_ok hdecode s).trans (exec_of_not_ready hnot)

/-- A response that is not OK is the error of a cause that was there before. -/
theorem rejected_of_issue {word : CmdWord} {s t : State} {r : Response} (h : issue word s = .next t)
    (hr : Responds s t r) (hne : r.status ≠ .ok) :
    ∃ e, Rejected word s e ∧ r = errorResponse e ∧ t = s.respond (errorResponse e) := by
  obtain ⟨i, hdecode, hexec⟩ | ⟨⟨e, hdecode⟩, rfl⟩ := issue_next h
  · obtain ⟨-, d, hok⟩ | ⟨hnot, rfl⟩ := exec_answers hexec
    · cases responds_unique hr hok
      exact absurd rfl hne
    · exact ⟨_, .notReady hdecode hnot, responds_unique hr rfl, rfl⟩
  · exact ⟨_, .illegal hdecode, responds_unique hr rfl, rfl⟩

/-- Settles O25: the next state is the one before with the error's response given. -/
theorem anErrorChangesNothing : Obligations.AnErrorChangesNothing := by
  intro word s t r h hr hne
  obtain ⟨e, -, rfl, rfl⟩ := rejected_of_issue h hr hne
  exact ⟨rfl, ⟨rfl, rfl, rfl⟩, rfl, rfl, rfl⟩

/-! ### An error repeats until its cause is removed (60_exceptions R94) -/

/-- The command removes the cause of the error. -/
def RemovesCause (j : Instr) : Error → Prop
  | .illegal => False
  | .prngUninit => j = .init
  | .c16Idle => j = .c16start
  | .c32Idle => j = .c32start

/-- A response, being on the port, leaves every cause as it is. -/
theorem rejected_respond {word : CmdWord} {e : Error} {s : State} (h : Rejected word s e) (r : Response) :
    Rejected word (s.respond r) e := by
  cases h with
  | illegal hdecode => exact .illegal hdecode
  | notReady hdecode hnot => exact .notReady hdecode hnot

/-- A precondition is on one flag, which only the command that removes the error's cause sets (10_state R23). -/
theorem ready_of_exec {i j : Instr} {s t : State} (h : exec j s = .next t)
    (hj : ¬ RemovesCause j (unitError i.unit)) (ht : Ready i t) : Ready i s := by
  obtain ⟨hvalid, -, hactive16, -, hactive32⟩ := noCommandClearsAFlag j s t h
  cases i with
  | seedw | init | c16start | c16rdt | c32start | c32rdt => trivial
  | next32 | next64 | rstate => exact (hvalid.mp ht).resolve_right hj
  | c16byte | c16result => exact (hactive16.mp ht).resolve_right hj
  | c32byte | c32result => exact (hactive32.mp ht).resolve_right hj

theorem rejected_of_exec {word : CmdWord} {e : Error} {j : Instr} {s t : State} (hs : Rejected word s e)
    (h : exec j s = .next t) (hj : ¬ RemovesCause j e) : Rejected word t e := by
  cases hs with
  | illegal hdecode => exact .illegal hdecode
  | notReady hdecode hnot => exact .notReady hdecode fun ht => hnot (ready_of_exec h hj ht)

theorem rejected_of_execAll {word : CmdWord} {e : Error} {is : List Instr} {s t : State} (hs : Rejected word s e)
    (h : execAll is s = .next t) (his : ∀ j ∈ is, ¬ RemovesCause j e) : Rejected word t e := by
  induction is generalizing s with
  | nil => cases h; exact hs
  | cons j is ih =>
    obtain ⟨hj, his⟩ := List.forall_mem_cons.mp his
    obtain ⟨u, hu, ht⟩ := execAll_cons_next h
    exact ih (rejected_of_exec hs hu hj) ht his

/-- Settles O26: the commands between leave the cause of the error, which rejects the word again. -/
theorem anErrorRepeatsUntilItsCauseIsRemoved : Obligations.AnErrorRepeatsUntilItsCauseIsRemoved := by
  intro word s t r h hr hne between hinit h16 h32
  obtain ⟨e, hs, rfl, rfl⟩ := rejected_of_issue h hr hne
  have hkeep : ∀ j ∈ between, ¬ RemovesCause j e := by
    rintro j hj hremoves
    cases e with
    | illegal => exact hremoves
    | prngUninit => cases hremoves; exact hinit rfl hj
    | c16Idle => cases hremoves; exact h16 rfl hj
    | c32Idle => cases hremoves; exact h32 rfl hj
  obtain ⟨u, hu⟩ := execAll_completes between (s.respond (errorResponse e))
  exact ⟨u, _, hu, issue_of_rejected (rejected_of_execAll (rejected_respond hs _) hu hkeep), rfl⟩

end Sys2Proof.Proofs
end

section
/-! SUPPORT. The statement about reset and hazards (70_reset_and_hazards): the seed sequence across every command but INIT. -/

namespace Sys2Proof.Proofs

open Sys2Proof.Machine Sys2Proof.Laws

/-! ### The seed sequence (70 R110) -/

theorem words_prefix_append (p : Prng) (w : Word) : p.words <+: (p.append w).words := by
  rw [append_words]
  split
  · exact List.prefix_append _ _
  · exact List.prefix_rfl

section
variable {i : Instr} (d : ClockSample) (p : Prng)

theorem prngAfter_words (h : (∀ w, i ≠ .seedw w) ∧ i ≠ .init) : (prngAfter i d p).words = p.words := by
  rw [Prng.words, prngAfter_seed d p h.1, prngAfter_seedCnt d p h, Prng.words]

/-- SEEDW adds a word at the end, and of the other commands only INIT touches the sequence (40_seed R58, R59). -/
theorem words_prefix_prngAfter (h : i ≠ .init) : p.words <+: (prngAfter i d p).words := by
  by_cases hseedw : ∃ w, i = .seedw w
  · obtain ⟨w, rfl⟩ := hseedw
    exact words_prefix_append p w
  · rw [prngAfter_words d p ⟨not_exists.mp hseedw, h⟩]

end

/-- Settles O21: the sequence only grows at its end, and SEEDCNT is its length. -/
theorem seedWordsStayUntilInit : Obligations.SeedWordsStayUntilInit := by
  intro i s t hexec hinit
  have hprefix : s.prng.words <+: t.prng.words := by
    rw [exec_prng hexec]
    exact words_prefix_prngAfter _ _ hinit
  have hlength := hprefix.length_le
  rw [words_length, words_length] at hlength
  exact ⟨hlength, hprefix⟩

end Sys2Proof.Proofs
end

section
/-! SUPPORT. The statements about the host's and the platform's side of the block: which command samples the clock and what INIT does
with the sample (10_state R24, 40_seed R57, R59), and the two steps that take no command, the held state and the reset event
(60_exceptions R102, 70 R103, R104). -/

namespace Sys2Proof.Proofs

open Sys2Proof.Machine Sys2Proof.Laws

/-! ### The draw (10_state R24) -/

section
variable {s : State}

theorem clockNow_of_cons {d : ClockSample} {ds : List ClockSample} (h : s.port.clock = d :: ds) : s.clockNow = d := by
  simp only [State.clockNow, h]

theorem clockNow_of_nil (h : s.port.clock = []) :
    s.clockNow = ⟨Config.timeSeed s.port.clockReads, Config.timeOk s.port.clockReads⟩ := by
  simp only [State.clockNow, h]

theorem clockUsed_of_cons {d : ClockSample} {ds : List ClockSample} (h : s.port.clock = d :: ds) :
    s.clockUsed = s.setPort { s.port with clock := ds } := by
  simp only [State.clockUsed, h]

theorem clockUsed_of_nil (h : s.port.clock = []) :
    s.clockUsed = s.setPort { s.port with clockReads := s.port.clockReads + 1 } := by
  simp only [State.clockUsed, h]

theorem afterDraw_of_unseeded (h : s.prng.seedCnt.val = 0) : s.afterDraw = s.clockUsed :=
  if_pos (Fin.ext h)

end

/-! ### Which command samples the clock (10_state R24) -/

/-- A precondition leaves the inputs alone when the rest of the command does, for an error is a response only. -/
theorem require_keepsInputs {flag : Bool} {e : Error} {s t : State} {rest : Result} (h : require flag e s rest = .next t)
    (hrest : rest = .next t → KeepsInputs s t) : KeepsInputs s t := by
  obtain ⟨-, hnext⟩ | ⟨-, rfl⟩ := require_next h
  · exact hrest hnext
  · exact ⟨rfl, rfl, rfl⟩

theorem exec_keepsInputs {i : Instr} {s t : State} (h : exec i s = .next t) (hi : i ≠ .init) : KeepsInputs s t := by
  cases i with
  | init => exact absurd rfl hi
  | seedw | c16start | c16rdt | c32start | c32rdt => cases h; exact ⟨rfl, rfl, rfl⟩
  | next32 | next64 | rstate | c16byte | c16result | c32byte | c32result =>
    exact require_keepsInputs h fun hnext => by cases hnext; exact ⟨rfl, rfl, rfl⟩

/-- INIT with a seed word collected makes no draw (40_seed R57). -/
theorem exec_init_keepsInputs {s t : State} (h : exec .init s = .next t) (hseeded : s.prng.seedCnt.val ≠ 0) :
    KeepsInputs s t := by
  rw [exec_init, afterDraw_of_seeded hseeded] at h
  cases h
  exact ⟨rfl, rfl, rfl⟩

/-- Settles O18: of the commands only INIT has a draw, and it makes it only when SEEDCNT = 0. -/
theorem onlyAnUnseededInitSamplesTheClock : Obligations.OnlyAnUnseededInitSamplesTheClock := by
  refine fun i s t h => ⟨exec_inbox h, fun hnot => ?_⟩
  by_cases hi : i = .init
  · subst hi
    exact exec_init_keepsInputs h fun hunseeded => hnot ⟨rfl, hunseeded⟩
  · exact exec_keepsInputs h hi

/-! ### What INIT does with the draw (40_seed R57, R59) -/

theorem constructed_eq_of_seeded {p : Prng} (h : p.seedCnt.val ≠ 0) (d d' : ClockSample) :
    p.constructed d = p.constructed d' := by
  simp only [Prng.constructed, construct_eq_of_ne_nil (mt (words_eq_nil_iff p).mp h) d d']

/-- Settles O19: the two runs construct from the same words, and so does the draw in which the clock is unavailable. -/
theorem aSeededInitIgnoresTheClock : Obligations.ASeededInitIgnoresTheClock := fun s _ _ hseeded =>
  ⟨_, _, exec_init s, exec_init _, constructed_eq_of_seeded hseeded _ _,
    congrArg Prng.s (constructed_eq_of_seeded hseeded s.clockNow ⟨0, false⟩)⟩

/-- With no seed word, INIT expands the word of its draw, and the draw is made. -/
theorem exec_init_of_unseeded {s : State} (h : s.prng.seedCnt.val = 0) :
    ∃ t, exec .init s = .next t ∧ t.prng.s = expand1 s.clockNow.word ∧
      t.port.clock = s.clockUsed.port.clock ∧ t.port.clockReads = s.clockUsed.port.clockReads := by
  refine ⟨_, exec_init s, ?_, ?_, ?_⟩
  · rw [respond_prng, setPrng_prng, constructed_s, (words_eq_nil_iff s.prng).mpr h, construct]
  · rw [respond_clock, setPrng_port, afterDraw_of_unseeded h]
  · rw [respond_clockReads, setPrng_port, afterDraw_of_unseeded h]

/-- Settles O20: the draw is the first sample listed, which is then gone, or else the free value of its number, which is then past. -/
theorem anUnseededInitUsesOneClockDraw : Obligations.AnUnseededInitUsesOneClockDraw := by
  intro s hunseeded
  obtain ⟨t, hexec, hs, hclock, hreads⟩ := exec_init_of_unseeded hunseeded
  refine ⟨fun d ds hlisted => ?_, fun hnone => ?_⟩
  · rw [clockNow_of_cons hlisted] at hs
    rw [clockUsed_of_cons hlisted] at hclock hreads
    exact ⟨t, hexec, hs, hclock, hreads⟩
  · rw [clockNow_of_nil hnone] at hs
    rw [clockUsed_of_nil hnone] at hclock hreads
    exact ⟨t, hexec, hs, hclock.trans hnone, hreads⟩

/-! ### The steps that take no command (60_exceptions R102; 70 R103, R104) -/

/-- Settles O34: there is no event to take. -/
theorem withNoEventTheStateIsHeld : Obligations.WithNoEventTheStateIsHeld := fun _ => step_of_inbox_nil

/-- Settles O35: the step is the reset of the block, in the state with the event taken. -/
theorem resetEventGivesTheResetState : Obligations.ResetEventGivesTheResetState := fun _ _ hreset =>
  ⟨_, step_of_inbox_cons hreset, rfl, rfl, rfl, rfl⟩

end Sys2Proof.Proofs
end
